-- ==== Sys2Proof/Word.lean ====
section
/-!
DEFINITION. The word and byte types of SHA2CORE and their plainest arithmetic.

00_scope R12: a Word is a 32-bit unsigned integer, bit 31 the most significant.
40_primitives R120: `+` on words is addition modulo 2^32, which is `+` of `BitVec 32`; the carry is recorded nowhere.
40_primitives R122: `and`, `or`, `xor`, `not` are `&&&`, `|||`, `^^^`, `~~~` of `BitVec 32`.
-/

namespace Sys2Proof

/-- A 32-bit unsigned word (00_scope R12, R17). -/
abbrev Word := BitVec 32

/-- Eight bits of a message word (30_encoding R91). -/
abbrev Byte := BitVec 8

/-- Eight words: a chaining state or the working variables (30_encoding R94). -/
abbrev Words8 := Vector Word 8

/-- Sixteen words: a block or a schedule window (30_encoding R90). -/
abbrev Words16 := Vector Word 16

end Sys2Proof
end

