-- ==== Sys2Proof/Syntax.lean ====
section
/-!
DEFINITION. The syntax: micro-operations and host accesses (30_encoding R101, R102), the sequencer's phases (10_state R31)
and the host's register accesses (10_state R44).
-/

namespace Sys2Proof

/-- One constructor per row of spec/opcode_table.json. The first eight are the micro-operations of format PHASE3, which have
no operand field (30_encoding R100); the others are the host accesses of format HOP5, each write with its 32-bit datum
(30_encoding R102). START and CTRLNOP share a code and differ in bit 0 of the datum. -/
inductive Instr where
  | idle
  | loadiv
  | fetch
  | initv
  | round
  | expand
  | feedfwd
  | done
  | start (datum : Word)
  | ctrlNop (datum : Word)
  | rdStatus
  | wrVariant (datum : Word)
  | wrBitlenLo (datum : Word)
  | wrBitlenHi (datum : Word)
  | wrMwordsLo (datum : Word)
  | wrMwordsHi (datum : Word)
  | rdVariant
  | rdBitlenLo
  | rdBitlenHi
  | rdMwordsLo
  | rdMwordsHi
  | rdDigest (i : BitVec 3)
  | rdCtrl
  | rdRsvd7
  | wrStatus (datum : Word)
  | wrRsvd7 (datum : Word)
  | wrDigest (i : BitVec 3) (datum : Word)
  deriving DecidableEq, Repr

/-- The eight values of `PHASE` by name (10_state R31); their codes are `Phase.code` in Decode.lean. -/
inductive Phase where
  | idle
  | loadiv
  | fetch
  | initv
  | round
  | expand
  | feedfwd
  | done
  deriving DecidableEq, Repr

/-- One atomic move of the host: `HostRead(regno)` or `HostWrite(regno, value32)` (10_state R44). Every register number can
be named; those above 15 have no `HOP` code (30_encoding R102). -/
inductive HostAccess where
  | read (regno : Nat)
  | write (regno : Nat) (datum : Word)
  deriving DecidableEq, Repr

/-- The two formats of 30_encoding: `PHASE3` (R100) and `HOP5` (R102). -/
inductive Format where
  | phase3
  | hop5
  deriving DecidableEq, Repr

end Sys2Proof
end

