-- ==== Sys2Proof/Machine/State.lean ====
section
/-!
DEFINITION. The state of one engine instance (10_state R20), the message it reads, the moves of its surroundings, and the
state after reset (10_state R56).
-/

namespace Sys2Proof.Machine

/-- The MSG space (20_memory R60) as message bytes: byte `4*i + j` is byte `j` of word `i`, byte 0 the most significant
(30_encoding R91; log entry 5, DESIGN CHOICE). Kept with addresses strictly rising and no zero entry; an unlisted byte reads 0
(log entry 6). -/
abbrev Memory := List Host.Cell

/-- One move of the machine or of its surroundings. Every interleaving of host accesses with engine steps (60_exceptions R225)
is some list of these (log entry 2). -/
inductive Turn where
  /-- The engine takes one step (30_encoding R100). -/
  | engine
  /-- The host makes one register access (10_state R44, 44_engine R191). -/
  | host (a : HostAccess)
  /-- The message source's word `i` becomes `value` (44_engine R206 "change the message memory"); word indices are 60 bits
  (00_scope R10). -/
  | place (i : BitVec 60) (value : Word)
  /-- The reset input (70_reset R250). -/
  | reset
  deriving DecidableEq, Repr

/-- The state. Ten fields are the spec's (10_state R20); `msg` is the run's input (R55); `hostData`, `turns`,
`freeCtr` and `engineId` are the model's own. -/
structure State where
  /-- `H[0..7]`, the chaining registers (10_state R21). -/
  h : Words8
  /-- `V[0..7]`, the working registers `a b c d e f g h` (10_state R22). -/
  v : Words8
  /-- `W[0..15]`, the schedule window (10_state R23). -/
  w : Words16
  /-- `PHASE` (10_state R31). -/
  phase : Phase
  /-- `BLK` (10_state R32). -/
  blk : BitVec 56
  /-- `GRP` (10_state R33). -/
  grp : BitVec 2
  /-- `RND` (10_state R33). -/
  rnd : BitVec 4
  /-- `BITLEN` (10_state R47). -/
  bitlen : BitVec 64
  /-- `MWORDS` (10_state R48). -/
  mwords : BitVec 60
  /-- `VARIANT`, the bit `V224` (10_state R46). -/
  variant : BitVec 1
  /-- The message (20_memory R61). -/
  msg : Memory
  /-- The value the last `HostRead` returned to the host (10_state R44); none before the first read (log entry 1). -/
  hostData : Option Word
  /-- The moves to come, oldest first; when there is none the engine moves (log entry 2). -/
  turns : List Turn
  /-- Counts reset events, to read free values at (log entry 4). -/
  freeCtr : Nat
  /-- Which instance of a platform this is (00_scope R11). No rule reads it and nothing writes it; it only keeps the free values
  of two instances apart (log entry 4). -/
  engineId : Nat
  deriving DecidableEq, Repr

/-- Why an instruction faults: never. "The set of exception causes is empty" (60_exceptions R220); no constructor, so nothing
raises one, and no claim is lost or gained by it (log entry 20). -/
inductive Fault : Type
  deriving DecidableEq, Repr

/-- Why the model gives a move no meaning. -/
inductive Refusal where
  /-- An instruction with no meaning yet; raised by `exec`'s arms only. Safe: the model stops. -/
  | notModelled (mnemonic : String)
  /-- The message is changed while `BUSY = 1`; raised by a `place` turn. Safe: 70_reset R255 gives such a run no meaning
  (log entry 7). -/
  | messageChangedDuringRun
  deriving DecidableEq, Repr

/-- What a meaning answers with. -/
abbrev Result := Host.Outcome State Fault Refusal

/-- The machine right after reset. `PHASE`, `BITLEN`, `MWORDS`, `VARIANT` as 10_state R56 states; `H`, `V`, `W`, `BLK`, `GRP`,
`RND`, which R57 leaves unspecified, zero (log entry 3, DESIGN CHOICE, unsafe); no message placed, no read made, no move to
come. -/
def State.reset : State where
  h := Vector.replicate 8 0
  v := Vector.replicate 8 0
  w := Vector.replicate 16 0
  phase := .idle
  blk := 0
  grp := 0
  rnd := 0
  bitlen := 0
  mwords := 0
  variant := 0
  msg := []
  hostData := none
  turns := []
  freeCtr := 0
  engineId := 0

end Sys2Proof.Machine
end

