-- ==== Sys2Proof/Config.lean ====
section
/-!
DEFINITION. The free values of the machine.

70_reset R250: at a reset event `H`, `V`, `W`, `BLK`, `GRP`, `RND` become unspecified.
Each constant here has no body, so no proof can see a value of it. It is applied to the whole state before the reset, so a value
may depend on what the registers held, on which instance it is (`engineId`) and on how many resets came before (`freeCtr`): no two
of them are provably equal unless those states are (log entry 4, DESIGN CHOICE, safe).
-/

namespace Sys2Proof

/-- What `H` holds after a reset event in the state that is the argument (10_state R57). -/
opaque Config.unspecifiedH : Machine.State → Words8

/-- What `V` holds after a reset event (10_state R57). -/
opaque Config.unspecifiedV : Machine.State → Words8

/-- What `W` holds after a reset event (10_state R57). -/
opaque Config.unspecifiedW : Machine.State → Words16

/-- What `BLK` holds after a reset event (10_state R57). -/
opaque Config.unspecifiedBlk : Machine.State → BitVec 56

/-- What `GRP` holds after a reset event (10_state R57). -/
opaque Config.unspecifiedGrp : Machine.State → BitVec 2

/-- What `RND` holds after a reset event (10_state R57). -/
opaque Config.unspecifiedRnd : Machine.State → BitVec 4

end Sys2Proof
end

