-- ==== Sys2Proof/Machine/Memory.lean ====
section
/-!
DEFINITION. The MSG space as a canonical list of bytes, and its word accesses (20_memory R60, R61, R65 to R68).
-/

namespace Sys2Proof.Machine

/-- What a byte nothing has placed reads as (log entry 6, DESIGN CHOICE; 00_scope R17 calls the message "mostly-zero"). -/
def unplacedByte : Byte := 0

/-- One past the last byte of the MSG space: 2^60 words (00_scope R10) of four bytes. -/
def memoryEnd : Nat := 2 ^ 62

/-- Canonical from address `lo` up: addresses strictly rising and inside the space, no entry that reads as an unlisted byte. -/
def Memory.wfFrom (lo : Nat) : Memory → Bool
  | [] => true
  | (a, b) :: m => decide (lo ≤ a) && decide (a < memoryEnd) && (b != unplacedByte) && Memory.wfFrom (a + 1) m

/-- The canonical form of the message memory. -/
def Memory.wf (m : Memory) : Bool :=
  Memory.wfFrom 0 m

/-- The byte at an address. -/
def Memory.readByte (a : Nat) : Memory → Byte
  | [] => unplacedByte
  | (a', b) :: m => if a' = a then b else Memory.readByte a m

/-- Put a byte at an address; an unplaced byte's value removes the entry. -/
def Memory.writeByte (a : Nat) (b : Byte) : Memory → Memory
  | [] => if b = unplacedByte then [] else [(a, b)]
  | (a', b') :: m =>
    if a < a' then (if b = unplacedByte then (a', b') :: m else (a, b) :: (a', b') :: m)
    else if a = a' then (if b = unplacedByte then m else (a, b) :: m)
    else (a', b') :: Memory.writeByte a b m

/-- `MemRead(i, 4) = M(i)`: the word at word index `i`, its earliest byte most significant (20_memory R61, 30_encoding R91). -/
def memRead (m : Memory) (i : Nat) : Word :=
  (Memory.readByte (4 * i) m ++ Memory.readByte (4 * i + 1) m ++ Memory.readByte (4 * i + 2) m ++
    Memory.readByte (4 * i + 3) m : BitVec (8 + 8 + 8 + 8))

/-- Make word `i` of the message `value` (44_engine R206, 20_memory R66). -/
def memPlace (m : Memory) (i : Nat) (value : Word) : Memory :=
  let m := Memory.writeByte (4 * i) (value.extractLsb' 24 8) m
  let m := Memory.writeByte (4 * i + 1) (value.extractLsb' 16 8) m
  let m := Memory.writeByte (4 * i + 2) (value.extractLsb' 8 8) m
  Memory.writeByte (4 * i + 3) (value.extractLsb' 0 8) m

/-- `MsgWord(i)`: the message word below `MWORDS`, zero with no access from `MWORDS` up (20_memory R61). -/
def msgWord (m : Memory) (mwords : BitVec 60) (i : Nat) : Word :=
  if i < mwords.toNat then memRead m i else 0

end Sys2Proof.Machine
end

