-- ==== Sys2Proof/Machine/Flags.lean ====
section
/-!
DEFINITION. The two status flags and the `STATUS` word (10_state R35, R45). The engine has no condition codes and no
arithmetic flags (R35).
-/

namespace Sys2Proof.Machine

/-- `BUSY = 1` exactly for `PHASE` 1 to 6 (10_state R35). -/
def phaseBusy : Phase → Bool
  | .loadiv | .fetch | .initv | .round | .expand | .feedfwd => true
  | .idle | .done => false

/-- `DONE = 1` exactly for `PHASE` 7 (10_state R35). -/
def phaseDone : Phase → Bool
  | .done => true
  | .idle | .loadiv | .fetch | .initv | .round | .expand | .feedfwd => false

/-- The `BUSY` flag of a state. -/
def State.busy (s : State) : Bool :=
  phaseBusy s.phase

/-- The `STATUS` word: bit 0 `BUSY`, bit 1 `DONE`, the rest 0 (10_state R45). -/
def statusWord (p : Phase) : Word :=
  (BitVec.ofBool (phaseDone p) ++ BitVec.ofBool (phaseBusy p) : BitVec (1 + 1)).setWidth 32

end Sys2Proof.Machine
end

