-- ==== Sys2Proof/Machine/Operands.lean ====
section
/-!
DEFINITION. Operand assembly: the implicit operands of the micro-operations (30_encoding R99) and the fields of the host
registers (30_encoding R95, R107; 10_state R44 to R50).
-/

namespace Sys2Proof.Machine

/-- The flat round number `t = 16*GRP + RND` (10_state R33, 30_encoding R99 (1)). -/
def flatRound (grp : BitVec 2) (rnd : BitVec 4) : Nat :=
  16 * grp.toNat + rnd.toNat

/-- The padded index FETCH asks for, `16*BLK + RND` (30_encoding R99 (3)). -/
def paddedIndex (blk : BitVec 56) (rnd : BitVec 4) : Nat :=
  16 * blk.toNat + rnd.toNat

/-- The window register `RND` names (30_encoding R99 (2)). -/
def windowWord (w : Words16) (rnd : BitVec 4) : Word :=
  w[rnd.toNat]'(rnd.isLt)

/-- The window with register `RND` replaced (41_padding R146). -/
def setWindowWord (w : Words16) (rnd : BitVec 4) (x : Word) : Words16 :=
  w.set rnd.toNat x (rnd.isLt)

/-- `ABI = floor(n / 32)`, the index of the boundary word (30_encoding R99 (5)). -/
def abi (bitlen : BitVec 64) : Nat :=
  bitlen.toNat / 32

/-- `r = n mod 32` (30_encoding R99 (5)). -/
def boundaryOffset (bitlen : BitVec 64) : Nat :=
  bitlen.toNat % 32

/-- `KEEP(r)`: the `r` most significant bits (30_encoding R99 (5), 41_padding R144). -/
def keepMask (r : Nat) : Word :=
  if r = 0 then 0 else (0xFFFFFFFF : Word) <<< (32 - r)

/-- `TERM(r)`: bit `31 - r` alone (30_encoding R99 (5), 41_padding R144). -/
def termWord (r : Nat) : Word :=
  (0x80000000 : Word) >>> r

/-- Bits 63:32 of `BITLEN`: the high length word, and `BITLEN_HI` (30_encoding R92, R95). -/
def bitlenHigh (bitlen : BitVec 64) : Word :=
  bitlen.extractLsb' 32 32

/-- Bits 31:0 of `BITLEN`: the low length word, and `BITLEN_LO` (30_encoding R92, R95). -/
def bitlenLow (bitlen : BitVec 64) : Word :=
  bitlen.extractLsb' 0 32

/-- `BITLEN` with its low half replaced (10_state R47). -/
def withBitlenLow (bitlen : BitVec 64) (x : Word) : BitVec 64 :=
  (bitlenHigh bitlen ++ x : BitVec (32 + 32))

/-- `BITLEN` with its high half replaced (10_state R47). -/
def withBitlenHigh (bitlen : BitVec 64) (x : Word) : BitVec 64 :=
  (x ++ bitlenLow bitlen : BitVec (32 + 32))

/-- `MWORDS_LO`: bits 31:0 of `MWORDS` (10_state R48). -/
def mwordsLow (mwords : BitVec 60) : Word :=
  mwords.extractLsb' 0 32

/-- `MWORDS_HI`: `MWORDS[59:32]` in bits 27:0, bits 31:28 zero (10_state R48). -/
def mwordsHigh (mwords : BitVec 60) : Word :=
  (mwords.extractLsb' 32 28).setWidth 32

/-- `MWORDS` with bits 31:0 replaced (10_state R48). -/
def withMwordsLow (mwords : BitVec 60) (x : Word) : BitVec 60 :=
  (mwords.extractLsb' 32 28 ++ x : BitVec (28 + 32))

/-- `MWORDS` with bits 59:32 replaced by bits 27:0 of the datum; bits 31:28 of the datum are ignored (10_state R48). -/
def withMwordsHigh (mwords : BitVec 60) (x : Word) : BitVec 60 :=
  (x.extractLsb' 0 28 ++ mwords.extractLsb' 0 32 : BitVec (28 + 32))

/-- The bit `V224` of a written datum; bits 31:1 are ignored (10_state R46). -/
def variantOfDatum (x : Word) : BitVec 1 :=
  x.extractLsb' 0 1

/-- The `VARIANT` register as read: `zext_32(V224)` (10_state R46). -/
def variantWord (variant : BitVec 1) : Word :=
  variant.setWidth 32

/-- The initial vector the variant selects (44_engine R195, R198; 30_encoding R97). -/
def initialVector (variant : BitVec 1) : Words8 :=
  if variant = 1 then IV224 else IV256

/-- Digest word `i` as the host reads it: zero outside DONE, the eighth word dropped for the 224-bit variant
(44_engine R196, 10_state R50). -/
def digestWord (s : State) (i : BitVec 3) : Word :=
  if s.phase ≠ .done then 0
  else if s.variant = 1 ∧ i = 7 then 0
  else s.h[i.toNat]'(i.isLt)

end Sys2Proof.Machine
end

