-- ==== Sys2Proof/Machine/Ops.lean ====
section
/-!
DEFINITION. The named operations over registers that the meanings share: one writer per register, the host's reads and
locked writes, the write of `CTRL`, the reset event and the placing of a message word.

There is no operation that takes or returns from an exception: "There is no trap mechanism: no vector, no handler address, no
saved state, no mode change, no stack" (60_exceptions R226), and no return from one (R227).
-/

namespace Sys2Proof.Machine

/-- Write `H[0..7]`. -/
def State.setH (s : State) (x : Words8) : State := { s with h := x }

/-- Write `V[0..7]`. -/
def State.setV (s : State) (x : Words8) : State := { s with v := x }

/-- Write `W[0..15]`. -/
def State.setW (s : State) (x : Words16) : State := { s with w := x }

/-- `PHASE <- x`. -/
def State.setPhase (s : State) (x : Phase) : State := { s with phase := x }

/-- `BLK <- x`. -/
def State.setBlk (s : State) (x : BitVec 56) : State := { s with blk := x }

/-- `GRP <- x`. -/
def State.setGrp (s : State) (x : BitVec 2) : State := { s with grp := x }

/-- `RND <- x`. -/
def State.setRnd (s : State) (x : BitVec 4) : State := { s with rnd := x }

/-- `BITLEN <- x`. -/
def State.setBitlen (s : State) (x : BitVec 64) : State := { s with bitlen := x }

/-- `MWORDS <- x`. -/
def State.setMwords (s : State) (x : BitVec 60) : State := { s with mwords := x }

/-- `V224 <- x`. -/
def State.setVariant (s : State) (x : BitVec 1) : State := { s with variant := x }

/-- The message becomes `x`. -/
def State.setMsg (s : State) (x : Memory) : State := { s with msg := x }

/-- A `HostRead` returned `x`. -/
def State.setHostData (s : State) (x : Word) : State := { s with hostData := some x }

/-- The moves to come become `x`. -/
def State.setTurns (s : State) (x : List Turn) : State := { s with turns := x }

/-- Count one use of the free values. -/
def State.bumpFree (s : State) : State := { s with freeCtr := s.freeCtr + 1 }

/-- A host read: the value is returned and nothing else happens (10_state R45, R50; 44_engine R196). -/
def hostAnswer (x : Word) (s : State) : Result :=
  .next (s.setHostData x)

/-- A write of a configuration register: it takes effect while `BUSY = 0` and is ignored while `BUSY = 1`
(70_reset R257). -/
def configWrite (written s : State) : Result :=
  .next (if s.busy then s else written)

/-- An access that does nothing (10_state R49). -/
def ignoredWrite (s : State) : Result :=
  .next s

/-- `HostWrite(0, v)`: START when bit 0 is 1 and the engine rests, else nothing (44_engine R192). -/
def writeCtrl (v : Word) (s : State) : Result :=
  .next (if v.getLsbD 0 && !s.busy then s.setPhase .loadiv else s)

/-- The reset event: `PHASE`, `BITLEN`, `MWORDS`, `VARIANT` as 70_reset R250 says; `H`, `V`, `W`, `BLK`, `GRP`, `RND` become
free values, which may differ with the whole state before the reset and between instances (log entry 4). The message, the host's last datum and the moves to come are outside the engine and stay
(log entry 9). -/
def resetEvent (s : State) : State :=
  let t := s.setH (Config.unspecifiedH s)
  let t := t.setV (Config.unspecifiedV s)
  let t := t.setW (Config.unspecifiedW s)
  let t := t.setBlk (Config.unspecifiedBlk s)
  let t := t.setGrp (Config.unspecifiedGrp s)
  let t := t.setRnd (Config.unspecifiedRnd s)
  let t := t.setBitlen 0
  let t := t.setMwords 0
  let t := t.setVariant 0
  let t := t.setPhase .idle
  t.bumpFree

/-- Word `i` of the message becomes `value`: allowed while `BUSY = 0` (44_engine R206); during a run the message must not
change and the model gives no meaning (70_reset R255, log entry 7). -/
def placeWord (i : BitVec 60) (value : Word) (s : State) : Result :=
  if s.busy then .refused .messageChangedDuringRun
  else .next (s.setMsg (memPlace s.msg i.toNat value))

end Sys2Proof.Machine
end

