-- ==== Sys2Proof/Machine/Access.lean ====
section
/-!
DEFINITION. The host accesses (30_encoding R102; 10_state R45 to R50; 44_engine R192, R196).
-/

namespace Sys2Proof.Machine

/-- START: `HostWrite(0, datum)` with datum bit 0 set (44_engine R192). -/
def execStart (datum : Word) (s : State) : Result :=
  writeCtrl datum s

/-- CTRLNOP: `HostWrite(0, datum)` with datum bit 0 clear (30_encoding R103). -/
def execCtrlNop (datum : Word) (s : State) : Result :=
  writeCtrl datum s

/-- RDSTATUS (10_state R45). -/
def execRdStatus (s : State) : Result :=
  hostAnswer (statusWord s.phase) s

/-- WRVARIANT (10_state R46). -/
def execWrVariant (datum : Word) (s : State) : Result :=
  configWrite (s.setVariant (variantOfDatum datum)) s

/-- WRBITLENLO (10_state R47). -/
def execWrBitlenLo (datum : Word) (s : State) : Result :=
  configWrite (s.setBitlen (withBitlenLow s.bitlen datum)) s

/-- WRBITLENHI (10_state R47). -/
def execWrBitlenHi (datum : Word) (s : State) : Result :=
  configWrite (s.setBitlen (withBitlenHigh s.bitlen datum)) s

/-- WRMWORDSLO (10_state R48). -/
def execWrMwordsLo (datum : Word) (s : State) : Result :=
  configWrite (s.setMwords (withMwordsLow s.mwords datum)) s

/-- WRMWORDSHI (10_state R48). -/
def execWrMwordsHi (datum : Word) (s : State) : Result :=
  configWrite (s.setMwords (withMwordsHigh s.mwords datum)) s

/-- RDVARIANT (10_state R46). -/
def execRdVariant (s : State) : Result :=
  hostAnswer (variantWord s.variant) s

/-- RDBITLENLO (10_state R47). -/
def execRdBitlenLo (s : State) : Result :=
  hostAnswer (bitlenLow s.bitlen) s

/-- RDBITLENHI (10_state R47). -/
def execRdBitlenHi (s : State) : Result :=
  hostAnswer (bitlenHigh s.bitlen) s

/-- RDMWORDSLO (10_state R48). -/
def execRdMwordsLo (s : State) : Result :=
  hostAnswer (mwordsLow s.mwords) s

/-- RDMWORDSHI (10_state R48). -/
def execRdMwordsHi (s : State) : Result :=
  hostAnswer (mwordsHigh s.mwords) s

/-- RDDIGEST i (44_engine R196, 10_state R50). -/
def execRdDigest (i : BitVec 3) (s : State) : Result :=
  hostAnswer (digestWord s i) s

/-- RDCTRL: `CTRL` is not stored and reads 0 (10_state R49). -/
def execRdCtrl (s : State) : Result :=
  hostAnswer 0 s

/-- RDRSVD7: a reserved register reads 0 (10_state R49). -/
def execRdRsvd7 (s : State) : Result :=
  hostAnswer 0 s

/-- WRSTATUS: a write to a read-only register is ignored (10_state R49). -/
def execWrStatus (_datum : Word) (s : State) : Result :=
  ignoredWrite s

/-- WRRSVD7: a write to a reserved register is ignored (10_state R49). -/
def execWrRsvd7 (_datum : Word) (s : State) : Result :=
  ignoredWrite s

/-- WRDIGEST i: a write to a read-only register is ignored (10_state R49). -/
def execWrDigest (_i : BitVec 3) (_datum : Word) (s : State) : Result :=
  ignoredWrite s

/-- An access to a register number above 15, which has no `HOP` code: a read returns 0, a write is ignored (10_state R49,
30_encoding R102; log entry 18). -/
def reservedAccess (a : HostAccess) (s : State) : Result :=
  match a with
  | .read _ => hostAnswer 0 s
  | .write _ _ => ignoredWrite s

end Sys2Proof.Machine
end

