-- ==== Sys2Proof/Machine/Padding.lean ====
section
/-!
DEFINITION. The padding and addressing controller (41_padding R141 to R144) and its micro-operation FETCH (R146).
-/

namespace Sys2Proof.Machine

/-- `PADLEN(n)`, the padded length in words, with the non-negative modulus (41_padding R141, 00_scope R14, 90_conflicts C2). -/
def padLen (n : Nat) : Nat :=
  (n + ((447 - (n : Int)) % 512).toNat + 65) / 32

/-- `NBLK = PADLEN(BITLEN) / 16` (41_padding R142). -/
def nblk (bitlen : BitVec 64) : Nat :=
  padLen bitlen.toNat / 16

/-- `BOUNDARY = PAD(ABI)` (41_padding R144): the terminator alone when `ABI` is beyond real content, else the kept content
bits and the terminator. -/
def boundaryWord (m : Memory) (mwords : BitVec 60) (bitlen : BitVec 64) : Word :=
  if mwords.toNat ≤ abi bitlen then 0x80000000
  else (memRead m (abi bitlen) &&& keepMask (boundaryOffset bitlen)) ||| termWord (boundaryOffset bitlen)

/-- `PAD(i)`, the cases tried in the order of 41_padding R143. -/
def pad (m : Memory) (mwords : BitVec 60) (bitlen : BitVec 64) (i : Nat) : Word :=
  if i < abi bitlen then msgWord m mwords i
  else if i = abi bitlen then boundaryWord m mwords bitlen
  else if i = padLen bitlen.toNat - 2 then bitlenHigh bitlen
  else if i = padLen bitlen.toNat - 1 then bitlenLow bitlen
  else 0

/-- `PAD(i)` of the run a state is in. -/
def State.pad (s : State) (i : Nat) : Word :=
  Sys2Proof.Machine.pad s.msg s.mwords s.bitlen i

/-- FETCH (41_padding R146): `W[RND] <- PAD(16*BLK + RND)`, then the next word or INITV. -/
def execFetch (s : State) : Result :=
  let t := s.setW (setWindowWord s.w s.rnd (s.pad (paddedIndex s.blk s.rnd)))
  .next (if s.rnd.toNat < 15 then t.setRnd (s.rnd + 1) else t.setPhase .initv)

end Sys2Proof.Machine
end

