-- ==== Sys2Proof/Machine/Primitives.lean ====
section
/-!
DEFINITION. The bitwise primitives (40_primitives R122 to R130). None reads or writes a register, sets a flag or raises
anything.
-/

namespace Sys2Proof.Machine

/-- Rotate right by `k`, `0 ≤ k ≤ 31` (40_primitives R123). -/
def rotr (k : Nat) (x : Word) : Word :=
  if k = 0 then x else (x >>> k) ||| (x <<< (32 - k))

/-- Logical shift right by `k` (40_primitives R124). -/
def shr (k : Nat) (x : Word) : Word :=
  x >>> k

/-- Choice (40_primitives R125). -/
def ch (x y z : Word) : Word :=
  (x &&& y) ^^^ (~~~x &&& z)

/-- A big sigma's shape: three rotations (30_encoding R98). -/
def xorOfRotations (r1 r2 r3 : Nat) (x : Word) : Word :=
  rotr r1 x ^^^ rotr r2 x ^^^ rotr r3 x

/-- A small sigma's shape: two rotations and a shift, which loses bits (30_encoding R98). -/
def xorOfRotationsAndShift (r1 r2 shift : Nat) (x : Word) : Word :=
  rotr r1 x ^^^ rotr r2 x ^^^ shr shift x

/-- 40_primitives R127. -/
def bigSigma0 : Word → Word := xorOfRotations 2 13 22

/-- 40_primitives R128. -/
def bigSigma1 : Word → Word := xorOfRotations 6 11 25

/-- 40_primitives R129. -/
def smallSigma0 : Word → Word := xorOfRotationsAndShift 7 18 3

/-- 40_primitives R130. -/
def smallSigma1 : Word → Word := xorOfRotationsAndShift 17 19 10

/-- Majority (40_primitives R126). -/
def maj (x y z : Word) : Word :=
  (x &&& y) ^^^ (x &&& z) ^^^ (y &&& z)

end Sys2Proof.Machine
end

