-- ==== Sys2Proof/Machine/Schedule.lean ====
section
/-!
DEFINITION. The message-schedule expander (42_schedule R161 to R163) and its micro-operation EXPAND (R165).
-/

namespace Sys2Proof.Machine

/-- The sixteen slots of a window, in the order they are computed. -/
def slots : List (Fin 16) :=
  [0, 1, 2, 3, 4, 5, 6, 7, 8, 9, 10, 11, 12, 13, 14, 15]

/-- One schedule word from `a = w[t-2]`, `b = w[t-7]`, `c = w[t-15]`, `d = w[t-16]` (42_schedule R161). -/
def wi (a b c d : Word) : Word :=
  smallSigma1 a + b + smallSigma0 c + d

/-- Slot `j` of the in-place form: `W[j] <- wi(W[j+14], W[j+9], W[j+1], W[j])`, indices mod 16 (42_schedule R163). -/
def nextSlot (w : Words16) (j : Fin 16) : Words16 :=
  w.set j (wi w[(j + 14 : Fin 16)] w[(j + 9 : Fin 16)] w[(j + 1 : Fin 16)] w[j])

/-- `nextWindow`, in place, slot by slot in index order, each read seeing the earlier writes (42_schedule R163; D7). -/
def nextWindow (w : Words16) : Words16 :=
  slots.foldl nextSlot w

/-- EXPAND (42_schedule R165). -/
def execExpand (s : State) : Result :=
  let t := s.setW (nextWindow s.w)
  let t := t.setGrp (s.grp + 1)
  let t := t.setRnd 0
  .next (t.setPhase .round)

end Sys2Proof.Machine
end

