-- ==== Sys2Proof/Machine/Compression.lean ====
section
/-!
DEFINITION. The compression round (43_compression R171, R173) and its micro-operations INITV, ROUND and FEEDFWD.
-/

namespace Sys2Proof.Machine

/-- `t1 = h + bigSigma1(e) + ch(e, f, g) + k + w` (43_compression R171); `e f g h` are `V[4..7]`. -/
def roundT1 (v : Words8) (k w : Word) : Word :=
  v[7] + bigSigma1 v[4] + ch v[4] v[5] v[6] + k + w

/-- `t2 = bigSigma0(a) + maj(a, b, c)` (43_compression R171); `a b c` are `V[0..2]`. -/
def roundT2 (v : Words8) : Word :=
  bigSigma0 v[0] + maj v[0] v[1] v[2]

/-- The round function, all eight new variables from the old ones (43_compression R173). -/
def roundFn (v : Words8) (k w : Word) : Words8 :=
  #v[roundT1 v k w + roundT2 v, v[0], v[1], v[2], v[3] + roundT1 v k w, v[4], v[5], v[6]]

/-- Word `i` of the sum of two vectors of words, modulo 2^32 (43_compression R176). -/
def sumWord (x y : Words8) (i : Fin 8) : Word :=
  x[i] + y[i]

/-- Elementwise addition, `x[i] + y[i]` for `i = 0 .. 7` (43_compression R176). -/
def addWords (x y : Words8) : Words8 :=
  #v[sumWord x y 0, sumWord x y 1, sumWord x y 2, sumWord x y 3, sumWord x y 4, sumWord x y 5, sumWord x y 6, sumWord x y 7]

/-- INITV (43_compression R172). -/
def execInitv (s : State) : Result :=
  let t := s.setV s.h
  let t := t.setGrp 0
  let t := t.setRnd 0
  .next (t.setPhase .round)

/-- Where ROUND goes: the next round of the group, EXPAND between groups, FEEDFWD after round 63 (43_compression R174). -/
def afterRound (s t : State) : State :=
  if s.rnd.toNat < 15 then t.setRnd (s.rnd + 1)
  else if s.grp.toNat < 3 then t.setPhase .expand
  else t.setPhase .feedfwd

/-- ROUND (43_compression R174). -/
def execRound (s : State) : Result :=
  .next (afterRound s (s.setV (roundFn s.v (K (flatRound s.grp s.rnd)) (windowWord s.w s.rnd))))

/-- Where FEEDFWD goes: the next block, or DONE after the last (43_compression R176). -/
def afterBlock (s t : State) : State :=
  if s.blk.toNat + 1 < nblk s.bitlen then ((t.setBlk (s.blk + 1)).setRnd 0).setPhase .fetch
  else t.setPhase .done

/-- FEEDFWD (43_compression R176). -/
def execFeedfwd (s : State) : Result :=
  .next (afterBlock s (s.setH (addWords s.h s.v)))

end Sys2Proof.Machine
end

