-- ==== Sys2Proof/Machine/Engine.lean ====
section
/-!
DEFINITION. The sequencer's own micro-operations IDLE, LOADIV and DONE (44_engine R197, R198, R203).
-/

namespace Sys2Proof.Machine

/-- IDLE: "The engine has no step: nothing is read, nothing is written, and the state stays as it is" (44_engine R197; log
entry 13). -/
def execIdle (s : State) : Result :=
  .next s

/-- LOADIV (44_engine R198). -/
def execLoadiv (s : State) : Result :=
  let t := s.setH (initialVector s.variant)
  let t := t.setBlk 0
  let t := t.setRnd 0
  .next (t.setPhase .fetch)

/-- DONE: the engine has no step (44_engine R203; log entry 13). -/
def execDone (s : State) : Result :=
  .next s

end Sys2Proof.Machine
end

