-- ==== Sys2Proof/Machine/Dispatch.lean ====
section
/-! DEFINITION. One arm per constructor of Instr: the meaning of each micro-operation and host access. -/

namespace Sys2Proof.Machine

def exec (i : Instr) (s : State) : Host.Outcome State Fault Refusal :=
  match i with
  | .idle => Sys2Proof.Machine.execIdle s
  | .loadiv => Sys2Proof.Machine.execLoadiv s
  | .fetch => Sys2Proof.Machine.execFetch s
  | .initv => Sys2Proof.Machine.execInitv s
  | .round => Sys2Proof.Machine.execRound s
  | .expand => Sys2Proof.Machine.execExpand s
  | .feedfwd => Sys2Proof.Machine.execFeedfwd s
  | .done => Sys2Proof.Machine.execDone s
  | .start datum => Sys2Proof.Machine.execStart datum s
  | .ctrlNop datum => Sys2Proof.Machine.execCtrlNop datum s
  | .rdStatus => Sys2Proof.Machine.execRdStatus s
  | .wrVariant datum => Sys2Proof.Machine.execWrVariant datum s
  | .wrBitlenLo datum => Sys2Proof.Machine.execWrBitlenLo datum s
  | .wrBitlenHi datum => Sys2Proof.Machine.execWrBitlenHi datum s
  | .wrMwordsLo datum => Sys2Proof.Machine.execWrMwordsLo datum s
  | .wrMwordsHi datum => Sys2Proof.Machine.execWrMwordsHi datum s
  | .rdVariant => Sys2Proof.Machine.execRdVariant s
  | .rdBitlenLo => Sys2Proof.Machine.execRdBitlenLo s
  | .rdBitlenHi => Sys2Proof.Machine.execRdBitlenHi s
  | .rdMwordsLo => Sys2Proof.Machine.execRdMwordsLo s
  | .rdMwordsHi => Sys2Proof.Machine.execRdMwordsHi s
  | .rdDigest j => Sys2Proof.Machine.execRdDigest j s
  | .rdCtrl => Sys2Proof.Machine.execRdCtrl s
  | .rdRsvd7 => Sys2Proof.Machine.execRdRsvd7 s
  | .wrStatus datum => Sys2Proof.Machine.execWrStatus datum s
  | .wrRsvd7 datum => Sys2Proof.Machine.execWrRsvd7 datum s
  | .wrDigest j datum => Sys2Proof.Machine.execWrDigest j datum s

end Sys2Proof.Machine
end

