-- ==== Sys2Proof/WellFormed.lean ====
section
/-!
DEFINITION. Well-formed instructions.

The only side condition of 30_encoding R102: bit 0 of the datum written to `CTRL` tells START (1) from CTRLNOP (0). Every
other operand has exactly the values its type has ("There is no illegal encoding", R103).
-/

namespace Sys2Proof

/-- A write of `CTRL` is START exactly when datum bit 0 is 1 and CTRLNOP exactly when it is 0 (30_encoding R102). -/
def Instr.wf : Instr → Bool
  | .start datum => datum.getLsbD 0
  | .ctrlNop datum => !datum.getLsbD 0
  | .idle | .loadiv | .fetch | .initv | .round | .expand | .feedfwd | .done
  | .rdStatus | .wrVariant _ | .wrBitlenLo _ | .wrBitlenHi _ | .wrMwordsLo _ | .wrMwordsHi _
  | .rdVariant | .rdBitlenLo | .rdBitlenHi | .rdMwordsLo | .rdMwordsHi | .rdDigest _
  | .rdCtrl | .rdRsvd7 | .wrStatus _ | .wrRsvd7 _ | .wrDigest _ _ => true

end Sys2Proof
end

