-- ==== Sys2Proof/Decode.lean ====
section
/-!
DEFINITION. Decoding and encoding of micro-operations and host accesses (30_encoding R100 to R104, spec/opcode_table.json).

The hardware stores no instruction: a micro-operation is the 3-bit `PHASE` and a host access a 5-bit `HOP` with a datum. As
bytes (log entry 10, DESIGN CHOICE: the spec fixes no byte layout): a micro-operation is one byte with its code in bits 2:0;
a host access is one byte with its code in bits 4:0, followed for a write by the four bytes of the datum, bits 7:0 first.
The unused high bits of the first byte are 0.
-/

namespace Sys2Proof

/-- The code of a phase (10_state R31). -/
def Phase.code : Phase → BitVec 3
  | .idle => 0b000#3
  | .loadiv => 0b001#3
  | .fetch => 0b010#3
  | .initv => 0b011#3
  | .round => 0b100#3
  | .expand => 0b101#3
  | .feedfwd => 0b110#3
  | .done => 0b111#3

/-- The phase of a code; all eight codes are assigned (30_encoding R101). -/
def Phase.ofCode (c : BitVec 3) : Phase :=
  match c.toNat with
  | 0 => .idle
  | 1 => .loadiv
  | 2 => .fetch
  | 3 => .initv
  | 4 => .round
  | 5 => .expand
  | 6 => .feedfwd
  | _ => .done

/-- The micro-operation a `PHASE` code names (30_encoding R101). -/
def decodePhase3 (c : BitVec 3) : Instr :=
  match c.toNat with
  | 0 => .idle
  | 1 => .loadiv
  | 2 => .fetch
  | 3 => .initv
  | 4 => .round
  | 5 => .expand
  | 6 => .feedfwd
  | _ => .done

/-- The access a read of a register number is, `HOP = 0 rrrr` (30_encoding R102). -/
def decodeRead (regno : BitVec 4) : Instr :=
  match regno.toNat with
  | 0 => .rdCtrl
  | 1 => .rdStatus
  | 2 => .rdVariant
  | 3 => .rdBitlenLo
  | 4 => .rdBitlenHi
  | 5 => .rdMwordsLo
  | 6 => .rdMwordsHi
  | 7 => .rdRsvd7
  | _ => .rdDigest (regno.extractLsb' 0 3)

/-- The access a write of a register number is, `HOP = 1 rrrr` (30_encoding R102). -/
def decodeWrite (regno : BitVec 4) (datum : Word) : Instr :=
  match regno.toNat with
  | 0 => if datum.getLsbD 0 then .start datum else .ctrlNop datum
  | 1 => .wrStatus datum
  | 2 => .wrVariant datum
  | 3 => .wrBitlenLo datum
  | 4 => .wrBitlenHi datum
  | 5 => .wrMwordsLo datum
  | 6 => .wrMwordsHi datum
  | 7 => .wrRsvd7 datum
  | _ => .wrDigest (regno.extractLsb' 0 3) datum

/-- The access of a `HOP` code and its datum: `HOP[4:0] = dir || regno[3:0]` (30_encoding R102). A read uses no datum. -/
def decodeHop5 (hop : BitVec 5) (datum : Word) : Instr :=
  if hop.getLsbD 4 then decodeWrite (hop.extractLsb' 0 4) datum else decodeRead (hop.extractLsb' 0 4)

/-- The instruction a host move is; none for a register number above 15, which has no `HOP` code (30_encoding R102). -/
def decodeAccess : HostAccess → Option Instr
  | .read regno => if regno < 16 then some (decodeRead (BitVec.ofNat 4 regno)) else none
  | .write regno datum => if regno < 16 then some (decodeWrite (BitVec.ofNat 4 regno) datum) else none

/-- Why bytes are no instruction. -/
inductive DecodeError where
  /-- There is no byte, or a write's datum is cut short. -/
  | truncated
  /-- A bit of the first byte above the code field is set. -/
  | padBitSet
  deriving DecidableEq, Repr

/-- A datum from its four bytes, bits 7:0 first (log entry 10). -/
def datumOfBytes (d0 d1 d2 d3 : Byte) : Word :=
  (d3 ++ d2 ++ d1 ++ d0 : BitVec (8 + 8 + 8 + 8))

/-- The four bytes of a datum, bits 7:0 first (log entry 10). -/
def bytesOfDatum (d : Word) : List Byte :=
  [d.extractLsb' 0 8, d.extractLsb' 8 8, d.extractLsb' 16 8, d.extractLsb' 24 8]

/-- Decode the bytes after a write's first byte. -/
def decodeDatum (regno : BitVec 4) : List Byte → Except DecodeError (Instr × List Byte)
  | d0 :: d1 :: d2 :: d3 :: rest => .ok (decodeWrite regno (datumOfBytes d0 d1 d2 d3), rest)
  | _ => .error .truncated

/-- Decode the first instruction of a byte list in one of the two formats; the rest of the list is returned. Total: what is
no instruction is rejected by name. -/
def decodeBytes : Format → List Byte → Except DecodeError (Instr × List Byte)
  | _, [] => .error .truncated
  | .phase3, b :: rest =>
    if b.toNat < 8 then .ok (decodePhase3 (b.extractLsb' 0 3), rest) else .error .padBitSet
  | .hop5, b :: rest =>
    if b.toNat < 32 then
      if b.getLsbD 4 then decodeDatum (b.extractLsb' 0 4) rest else .ok (decodeRead (b.extractLsb' 0 4), rest)
    else .error .padBitSet

/-- What an instruction is encoded as: its format, its code, and the datum of a write. -/
structure Encoding where
  format : Format
  code : Byte
  datum : Option Word
  deriving DecidableEq, Repr

/-- The encoding of a micro-operation. -/
def Encoding.phase3 (code : BitVec 3) : Encoding := ⟨.phase3, code.setWidth 8, none⟩

/-- The encoding of a read of register `regno`: `HOP = 0 || regno`. -/
def Encoding.read (regno : BitVec 4) : Encoding := ⟨.hop5, (0#1 ++ regno : BitVec (1 + 4)).setWidth 8, none⟩

/-- The encoding of a write of register `regno`: `HOP = 1 || regno`, with the datum. -/
def Encoding.write (regno : BitVec 4) (datum : Word) : Encoding :=
  ⟨.hop5, (1#1 ++ regno : BitVec (1 + 4)).setWidth 8, some datum⟩

/-- The encoding of each instruction, from the tables of 30_encoding R101 and R102. -/
def encode : Instr → Encoding
  | .idle => .phase3 0b000#3
  | .loadiv => .phase3 0b001#3
  | .fetch => .phase3 0b010#3
  | .initv => .phase3 0b011#3
  | .round => .phase3 0b100#3
  | .expand => .phase3 0b101#3
  | .feedfwd => .phase3 0b110#3
  | .done => .phase3 0b111#3
  | .start d => .write 0b0000#4 d
  | .ctrlNop d => .write 0b0000#4 d
  | .rdStatus => .read 0b0001#4
  | .wrVariant d => .write 0b0010#4 d
  | .wrBitlenLo d => .write 0b0011#4 d
  | .wrBitlenHi d => .write 0b0100#4 d
  | .wrMwordsLo d => .write 0b0101#4 d
  | .wrMwordsHi d => .write 0b0110#4 d
  | .rdVariant => .read 0b0010#4
  | .rdBitlenLo => .read 0b0011#4
  | .rdBitlenHi => .read 0b0100#4
  | .rdMwordsLo => .read 0b0101#4
  | .rdMwordsHi => .read 0b0110#4
  | .rdDigest i => .read (1#1 ++ i : BitVec (1 + 3))
  | .rdCtrl => .read 0b0000#4
  | .rdRsvd7 => .read 0b0111#4
  | .wrStatus d => .write 0b0001#4 d
  | .wrRsvd7 d => .write 0b0111#4 d
  | .wrDigest i d => .write (1#1 ++ i : BitVec (1 + 3)) d

/-- The bytes of an encoding (log entry 10). -/
def Encoding.bytes (e : Encoding) : List Byte :=
  e.code :: (match e.datum with
    | some d => bytesOfDatum d
    | none => [])

/-- Which format a numbered word of the opcode table is read in. A PHASE3 row has 3 bits and a HOP5 row 5; given in whole
bytes both have 8, and then a word below 8 is read as the micro-operation and any other as the host access (log entry 11,
DESIGN CHOICE: the two formats' codes overlap, and the spec tells them apart by where they stand, not by a bit). -/
def tableFormat (nbits w : Nat) : Format :=
  if nbits ≤ 3 then .phase3
  else if nbits ≤ 5 then .hop5
  else if nbits ≤ 8 then (if w < 8 then .phase3 else .hop5)
  else .hop5

/-- The bytes of a numbered word: bits 7:0 first, as many as the longest instruction has, every bit from `nbits` up zero. -/
def tableBytes (nbits w : Nat) : List Byte :=
  [0, 1, 2, 3, 4].map fun k => BitVec.ofNat 8 ((w % 2 ^ nbits) / 2 ^ (8 * k))

/-- The instruction the decoder reads from a word numbered as spec/opcode_table.json numbers it. -/
def decodeTableWord (nbits w : Nat) : Option Instr :=
  match decodeBytes (tableFormat nbits w) (tableBytes nbits w) with
  | .ok (i, _) => some i
  | .error _ => none

end Sys2Proof
end

