-- ==== Sys2Proof/Machine/Fetch.lean ====
section
/-!
DEFINITION. Which instruction the next step performs, and how one is put there. There is no instruction memory (10_state R30,
20_memory R77): an engine step performs the micro-operation `PHASE` names (30_encoding R100), a host move the access it is.
-/

namespace Sys2Proof.Machine

/-- The micro-operation of an engine step: the one `PHASE` names (30_encoding R100). -/
def nextMicroOp (s : State) : Instr :=
  decodePhase3 s.phase.code

/-- The move that comes next and the moves after it; with none left, the engine moves (log entry 2). -/
def nextTurn (s : State) : Turn × List Turn :=
  match s.turns with
  | [] => (.engine, [])
  | turn :: rest => (turn, rest)

/-- The host's register access whose `HOP` code and datum are the low 40 bits of a numbered word: bits 4:0 the code, bits 39:8
the datum (log entries 10, 11). -/
def tableAccess (w : Nat) : HostAccess :=
  if w / 16 % 2 = 1 then .write (w % 16) (BitVec.ofNat 32 (w / 256)) else .read (w % 16)

/-- Put a numbered word where the next step takes its instruction: for a micro-operation, `PHASE` holds its code and the
engine moves next; for a host access, it is the host's next move (log entry 12). -/
def placeFetchWord (s : State) (nbits w : Nat) : State :=
  match tableFormat nbits w with
  | .phase3 => (s.setPhase (Phase.ofCode (BitVec.ofNat 3 (w % 2 ^ nbits)))).setTurns (.engine :: s.turns)
  | .hop5 => s.setTurns (.host (tableAccess (w % 2 ^ nbits)) :: s.turns)

end Sys2Proof.Machine
end

