-- ==== Sys2Proof/Machine/Step.lean ====
section
/-!
DEFINITION. One step of the machine: the next turn is taken, whole (44_engine R191, 60_exceptions R225, R226).
-/

namespace Sys2Proof.Machine

/-- One host move (10_state R44): the access its register number and direction encode (30_encoding R102), or a reserved access
where the number is above 15. -/
def hostMove (a : HostAccess) (s : State) : Host.Outcome State Fault Refusal :=
  match decodeAccess a with
  | some i => exec i s
  | none => reservedAccess a s

/-- One turn of the machine or its surroundings. -/
def takeTurn (turn : Turn) (s : State) : Host.Outcome State Fault Refusal :=
  match turn with
  | .engine => exec (nextMicroOp s) s
  | .host a => hostMove a s
  | .place i value => placeWord i value s
  | .reset => .next (resetEvent s)

/-- One step: the next turn, with the turns after it left to come. -/
def step (s : State) : Host.Outcome State Fault Refusal :=
  takeTurn (nextTurn s).1 (s.setTurns (nextTurn s).2)

/-- The state with a numbered word where `step` takes its next instruction (log entry 12). -/
def State.withFetchWord (s : State) (nbits w : Nat) : State :=
  placeFetchWord s nbits w

end Sys2Proof.Machine
end

