-- ==== Sys2Proof/Machine/Platform.lean ====
section
/-!
DEFINITION. A platform of `NENG` engine instances (00_scope R11, 60_exceptions R233): each has its own complete state and its
own host registers, and they share nothing but the ROM contents; that each also has its own message is the model's choice
(log entry 16). The platform holds for each instance what its last step answered.
-/

namespace Sys2Proof.Machine

/-- All instances right after reset (60_exceptions R233 "All instances leave reset in IDLE"), numbered from 0; what it leaves
unspecified is free for each on its own (log entry 4). -/
def platformReset (neng : Nat) : List Result :=
  (List.range neng).map fun i => .next (resetEvent { State.reset with engineId := i })

/-- The next step of an instance: a step from its state. One whose run was given no meaning stays so, also across a reset (log entry 23,
DESIGN CHOICE). -/
def resume : Result → Result
  | .next s => step s
  | .fault r => .fault r
  | .refused r => .refused r

/-- Instance `i` takes one step; the others stay as they are, also where that step is refused (60_exceptions R233, log entry
23). An index with no instance is nobody's step. -/
def platformStep (i : Nat) (p : List Result) : List Result :=
  p.modify i resume

/-- Steps of instances in the order of a list of their indices. -/
def platformRun : List Nat → List Result → List Result
  | [], p => p
  | i :: is, p => platformRun is (platformStep i p)

end Sys2Proof.Machine
end

