-- ==== Sys2Proof/Machine/Contracts.lean ====
section
/-!
DEFINITION. DOC00's contracts as functions (43_compression R177, 44_engine R190), and the parts of a block's run they are made
of. No step computes with them; statements compare the steps with them.
-/

namespace Sys2Proof.Machine

/-- Block `b` of the padded message: `PAD(16*b) .. PAD(16*b + 15)` (44_engine R190). -/
def blockWords (m : Memory) (mwords : BitVec 60) (bitlen : BitVec 64) (b : Nat) : Words16 :=
  Vector.ofFn fun j : Fin 16 => pad m mwords bitlen (16 * b + j.val)

/-- The window of group `g` of a block: the block itself, then `nextWindow` of the window before (42_schedule R164). -/
def windowOf (B : Words16) : Nat → Words16
  | 0 => B
  | g + 1 => nextWindow (windowOf B g)

/-- The working variables after the first `t` rounds of a block, with `K[t]` and the schedule word in slot `t mod 16` of the
window of group `t / 16` (43_compression R174, R175). -/
def workAfter (S : Words8) (B : Words16) : Nat → Words8
  | 0 => S
  | t + 1 =>
    roundFn (workAfter S B t) (K t) ((windowOf B (t / 16))[t % 16]'(Nat.mod_lt t (by decide)))

/-- The sixteen rounds of group `grp` with window `w` (43_compression R177, inner loop). -/
def groupRounds (grp : Nat) (w : Words16) (v : Words8) : Words8 :=
  slots.foldl (fun v j => roundFn v (K (16 * grp + j.val)) w[j]) v

/-- One turn of the outer loop of `compress`: the rounds of a group, then the next window except after the last
(43_compression R177). -/
def compressGroup (vw : Words8 × Words16) (grp : Nat) : Words8 × Words16 :=
  (groupRounds grp vw.2 vw.1, if grp < 3 then nextWindow vw.2 else vw.2)

/-- `compress(S, B)` (43_compression R177). -/
def compress (S : Words8) (B : Words16) : Words8 :=
  addWords S ([0, 1, 2, 3].foldl compressGroup (S, B)).1

/-- The chaining state before block `b`: the initial vector, then `compress` block by block (44_engine R190). -/
def chainBefore (m : Memory) (mwords : BitVec 60) (bitlen : BitVec 64) (variant : BitVec 1) : Nat → Words8
  | 0 => initialVector variant
  | b + 1 => compress (chainBefore m mwords bitlen variant b) (blockWords m mwords bitlen b)

/-- The final chaining state of a run (44_engine R202). -/
def finalChain (m : Memory) (mwords : BitVec 60) (bitlen : BitVec 64) (variant : BitVec 1) : Words8 :=
  chainBefore m mwords bitlen variant (nblk bitlen)

/-- `digest(M, MWORDS, n, variant)`: all eight words, or the first seven (44_engine R190). -/
def digest (m : Memory) (mwords : BitVec 60) (bitlen : BitVec 64) (variant : BitVec 1) : List Word :=
  if variant = 1 then (finalChain m mwords bitlen variant).toList.take 7
  else (finalChain m mwords bitlen variant).toList

end Sys2Proof.Machine
end

