-- ==== Sys2Proof/Safety.lean ====
section
/-!
DEFINITION. What claims are stated in: legal sequencer positions, the run invariant, valid inputs, message bits, and the parts
of a state.
-/

namespace Sys2Proof.Machine

/-- The positions a run reaches (10_state R32, R34; 42_schedule R165; 43_compression R174, R176): the block index is below
`NBLK` in every phase of a block; INITV, EXPAND and FEEDFWD are entered with `RND = 15`, EXPAND below the last group, FEEDFWD
from it. -/
def legalPosition (s : State) : Prop :=
  match s.phase with
  | .idle | .loadiv | .done => True
  | .fetch | .round => s.blk.toNat < nblk s.bitlen
  | .initv => s.blk.toNat < nblk s.bitlen ∧ s.rnd = 15
  | .expand => s.blk.toNat < nblk s.bitlen ∧ s.rnd = 15 ∧ s.grp.toNat < 3
  | .feedfwd => s.blk.toNat < nblk s.bitlen ∧ s.rnd = 15 ∧ s.grp = 3

/-- The sequencer stands at a legal position and the message memory is canonical. -/
def controlInv (s : State) : Prop :=
  legalPosition s ∧ Memory.wf s.msg = true

/-- The chaining state before the block a state is in. -/
def State.chain (s : State) : Words8 :=
  chainBefore s.msg s.mwords s.bitlen s.variant s.blk.toNat

/-- The block a state is in. -/
def State.block (s : State) : Words16 :=
  blockWords s.msg s.mwords s.bitlen s.blk.toNat

/-- What the data registers hold in each phase of a run (10_state R21 to R23; 44_engine R200): `H` the chaining state before
the block; the fetched words of `W` the padded words; then `W` the window of the group and `V` the working variables after
the rounds done. -/
def dataPosition (s : State) : Prop :=
  match s.phase with
  | .idle | .loadiv | .done => True
  | .fetch => s.h = s.chain ∧ ∀ j : Fin 16, j.val < s.rnd.toNat → s.w[j] = s.pad (16 * s.blk.toNat + j.val)
  | .initv => s.h = s.chain ∧ s.w = s.block
  | .round =>
    s.h = s.chain ∧ s.w = windowOf s.block s.grp.toNat ∧ s.v = workAfter s.chain s.block (flatRound s.grp s.rnd)
  | .expand =>
    s.h = s.chain ∧ s.w = windowOf s.block s.grp.toNat ∧ s.v = workAfter s.chain s.block (16 * (s.grp.toNat + 1))
  | .feedfwd => s.h = s.chain ∧ s.v = workAfter s.chain s.block 64

/-- The run invariant: a legal position, canonical memory, and the data registers holding what the rules say they hold. -/
def runInv (s : State) : Prop :=
  controlInv s ∧ dataPosition s

/-- A valid input as far as the registers can say (60_exceptions R222 item 2): `MWORDS ≥ ceil(n / 32)`. -/
def validInput (mwords : BitVec 60) (bitlen : BitVec 64) : Prop :=
  (bitlen.toNat + 31) / 32 ≤ mwords.toNat

/-- Message bit `k`: bit `31 - (k mod 32)` of word `k / 32` (00_scope R13). -/
def messageBit (m : Memory) (k : Nat) : Bool :=
  (memRead m (k / 32)).getLsbD (31 - k % 32)

/-- Bit `k` of the padded message, numbered as message bits are (41_padding R145 (7)). -/
def paddedBit (m : Memory) (mwords : BitVec 60) (bitlen : BitVec 64) (k : Nat) : Bool :=
  (pad m mwords bitlen (k / 32)).getLsbD (31 - k % 32)

/-- The state without what belongs to the host: its last datum and the moves to come. -/
def State.engineView (s : State) : State :=
  { s with hostData := none, turns := [] }

/-- The engine left alone from a state: the moves to come dropped, so that every step is the engine's. -/
def State.alone (s : State) : State :=
  { s with turns := [] }

/-- `k` steps one after another, stopping where one stops. -/
def runSteps : Nat → State → Result
  | 0, s => .next s
  | k + 1, s =>
    match step s with
    | .next t => runSteps k t
    | .fault r => .fault r
    | .refused r => .refused r

/-- The counters of the position that a run has set in a phase are equal (10_state R26): none at rest and before LOADIV, `BLK`
and `RND` while the block is fetched, `GRP` too in its rounds. -/
def positionEq (s t : State) : Prop :=
  match s.phase with
  | .idle | .loadiv | .done => True
  | .fetch | .initv => s.blk = t.blk ∧ s.rnd = t.rnd
  | .round | .expand | .feedfwd => s.blk = t.blk ∧ s.rnd = t.rnd ∧ s.grp = t.grp

/-- What no claim about secrecy hides: the phase and the position of a run, the configuration, and what the host holds; `H`,
`V`, `W` and the message may differ (60_exceptions R232). -/
def publicEq (s t : State) : Prop :=
  s.phase = t.phase ∧ positionEq s t ∧ s.bitlen = t.bitlen ∧ s.mwords = t.mwords ∧ s.variant = t.variant ∧
    s.hostData = t.hostData ∧ s.turns = t.turns

/-- A turn that reads a DIGEST register (10_state R50). -/
def readsDigest : Turn → Bool
  | .host (.read regno) => decide (8 ≤ regno) && decide (regno ≤ 15)
  | .host (.write _ _) | .engine | .place _ _ | .reset => false

/-- A turn of the engine or of the host: not the message source's and not a reset. -/
def engineOrHost : Turn → Bool
  | .engine | .host _ => true
  | .place _ _ | .reset => false

/-- How many turns of a list are the engine's. -/
def engineTurns (ts : List Turn) : Nat :=
  (ts.filter (· = .engine)).length

end Sys2Proof.Machine
end

