-- ==== Sys2Proof/Certificates/Slice0/Obligations.lean ====
section
/-!
DEFINITION. The statements for the provers. Each docstring names the rule of spec/ it formalises.
-/

open Sys2Proof Sys2Proof.Machine

/-! ### Encoding -/

/-- Words written out from the tables of 30_encoding R101 and R102 decode to what they stand for. The byte order of the datum is
the model's choice (log entry 10). -/
def Obligations.SpecWordsDecode : Prop :=
  decodeBytes .phase3 [0b001#8] = .ok (.loadiv, []) ∧
  decodeBytes .phase3 [0b101#8] = .ok (.expand, []) ∧
  decodeBytes .hop5 [0b00001#8] = .ok (.rdStatus, []) ∧
  decodeBytes .hop5 [0b01101#8] = .ok (.rdDigest 5, []) ∧
  decodeBytes .hop5 [0b10011#8, 0x18#8, 0#8, 0#8, 0#8] = .ok (.wrBitlenLo 0x18, []) ∧
  decodeBytes .hop5 [0b10000#8, 0x01#8, 0#8, 0#8, 0#8] = .ok (.start 1, []) ∧
  decodeBytes .hop5 [0b10000#8, 0xfe#8, 0xff#8, 0xff#8, 0xff#8] = .ok (.ctrlNop 0xfffffffe, []) ∧
  decodeBytes .hop5 [0b11111#8, 0x78#8, 0x56#8, 0x34#8, 0x12#8] = .ok (.wrDigest 7 0x12345678, [])

/-- Decoding an encoded well-formed instruction gives it back, with every operand, whatever bytes follow. -/
def Obligations.DecodeOfEncode : Prop :=
  ∀ (i : Instr) (rest : List Byte), i.wf = true →
    decodeBytes (encode i).format ((encode i).bytes ++ rest) = .ok (i, rest)

/-- Every accepted byte list is the encoding of the instruction it decodes to: each word has one meaning and no bit is
ignored. -/
def Obligations.EncodeOfDecode : Prop :=
  ∀ (f : Format) (bs : List Byte) (i : Instr) (rest : List Byte), decodeBytes f bs = .ok (i, rest) →
    i.wf = true ∧ (encode i).format = f ∧ bs = (encode i).bytes ++ rest

/-- 30_encoding R101, R103: every 3-bit code is one micro-operation, no two codes the same one, every 5-bit code with every
datum is a well-formed host access, and `PHASE` has no unassigned value. -/
def Obligations.NoIllegalCode : Prop :=
  (∀ (c : BitVec 3) (rest : List Byte), ∃ i, decodeBytes .phase3 (c.setWidth 8 :: rest) = .ok (i, rest)) ∧
  (∀ c c' : BitVec 3, decodePhase3 c = decodePhase3 c' → c = c') ∧
  (∀ (c : BitVec 3) (p : Phase), (Phase.ofCode c).code = c ∧ Phase.ofCode p.code = p) ∧
  (∀ (hop : BitVec 5) (d0 d1 d2 d3 : Byte) (rest : List Byte), ∃ i rest',
    decodeBytes .hop5 (hop.setWidth 8 :: d0 :: d1 :: d2 :: d3 :: rest) = .ok (i, rest') ∧ i.wf = true)

/-! ### What a step is -/

/-- 30_encoding R100: an engine turn, or a step with no turn left, runs the micro-operation whose code `PHASE` holds; the step
adds only that the turn is used up (log entry 2). -/
def Obligations.EngineTurnRunsThePhase : Prop :=
  ∀ (s : State) (i : Instr) (rest : List Turn),
    (s.turns = [] ∧ rest = []) ∨ s.turns = .engine :: rest →
    decodeBytes .phase3 [s.phase.code.setWidth 8] = .ok (i, []) →
    step s = exec i { s with turns := rest }

/-- 30_encoding R102: a host turn on a register number up to 15 runs the access whose code is `dir || regno` with its datum; the
step adds only that the turn is used up (log entry 2). -/
def Obligations.HostTurnRunsTheAccess : Prop :=
  ∀ (s : State) (i : Instr) (regno : Nat) (rest : List Turn), regno < 16 →
    (s.turns = .host (.read regno) :: rest → decodeBytes .hop5 [BitVec.ofNat 8 regno] = .ok (i, []) →
      step s = exec i { s with turns := rest }) ∧
    (∀ d : Word, s.turns = .host (.write regno d) :: rest →
      decodeBytes .hop5 (BitVec.ofNat 8 (16 + regno) :: bytesOfDatum d) = .ok (i, []) →
      step s = exec i { s with turns := rest })

/-- A word put in place by `withFetchWord` is the very next instruction `step` runs (log entries 11, 12). -/
def Obligations.WordInPlaceRunsFirst : Prop :=
  ∀ (s : State) (nbits w : Nat) (i : Instr), decodeTableWord nbits w = some i →
    ∃ p : Phase, step (s.withFetchWord nbits w) = exec i { s with phase := p } ∧
      (tableFormat nbits w = .hop5 → p = s.phase)

/-- 60_exceptions R220: no micro-operation and no host access can fault, and none is refused; a step stops only where the
message is changed during a run, which 70_reset R255 gives no meaning (log entry 7). -/
def Obligations.OnlyAMessageChangeStops : Prop :=
  (∀ (i : Instr) (s : State), ∃ t, exec i s = .next t) ∧
  ∀ s : State, (∃ t, step s = .next t) ∨
    (step s = .refused .messageChangedDuringRun ∧ ¬(s.phase = .idle ∨ s.phase = .done) ∧
      ∃ i value rest, s.turns = .place i value :: rest)

/-! ### Reset -/

/-- 70_reset R250: the effect of a reset in any state. What `H`, `V`, `W`, `BLK`, `GRP`, `RND` become is left open; that the
message, the host's datum and the moves to come stay is log entry 9. -/
def Obligations.ResetEventAsStated : Prop :=
  ∀ (s : State) (rest : List Turn), s.turns = .reset :: rest →
    ∃ t, step s = .next t ∧ t.phase = .idle ∧ t.bitlen = 0 ∧ t.mwords = 0 ∧ t.variant = 0 ∧
      t.msg = s.msg ∧ t.hostData = s.hostData ∧ t.turns = rest ∧
      (∀ i : BitVec 3, exec (.rdDigest i) t = .next { t with hostData := some 0 }) ∧
      exec .rdStatus t = .next { t with hostData := some 0 }

/-- 10_state R56: what reset leaves, and that the run invariant holds there. -/
def Obligations.ResetStateAsStated : Prop :=
  State.reset.phase = .idle ∧ State.reset.bitlen = 0 ∧ State.reset.mwords = 0 ∧ State.reset.variant = 0 ∧
  State.reset.msg = [] ∧ runInv State.reset

/-- 10_state R58: a START straight after a reset event, from any state, whatever the reset left in the datapath, runs SHA-256 over
the empty message and ends with the digest of T1. -/
def Obligations.StartAfterResetHashesEmpty : Prop :=
  ∀ s : State, s.turns = [.reset, .host (.write 0 1)] →
    ∃ t, runSteps (2 + 86) s = .next t ∧ t.phase = .done ∧
      t.h = #v[0xe3b0c442, 0x98fc1c14, 0x9afbf4c8, 0x996fb924, 0x27ae41e4, 0x649b934c, 0xa495991b, 0x7852b855]

/-! ### Host accesses -/

/-- 44_engine R192: an accepted START writes `PHASE` alone; a START while busy and a CTRL write with bit 0 clear do nothing; CTRL
reads 0. -/
def Obligations.StartIsAcceptedOnlyAtRest : Prop :=
  ∀ (d : Word) (s : State),
    (d.getLsbD 0 = true → (s.phase = .idle ∨ s.phase = .done) → exec (.start d) s = .next { s with phase := .loadiv }) ∧
    (d.getLsbD 0 = true → ¬(s.phase = .idle ∨ s.phase = .done) → exec (.start d) s = .next s) ∧
    (d.getLsbD 0 = false → exec (.ctrlNop d) s = .next s) ∧
    exec .rdCtrl s = .next { s with hostData := some 0 }

/-- 10_state R46: the `VARIANT` register, written and read. -/
def Obligations.VariantRegister : Prop :=
  ∀ (d : Word) (s : State),
    ((s.phase = .idle ∨ s.phase = .done) →
      exec (.wrVariant d) s = .next { s with variant := BitVec.ofNat 1 (d.toNat % 2) }) ∧
    (¬(s.phase = .idle ∨ s.phase = .done) → exec (.wrVariant d) s = .next s) ∧
    exec .rdVariant s = .next { s with hostData := some (BitVec.ofNat 32 s.variant.toNat) }

/-- 10_state R47: the two halves of `BITLEN`, written and read. -/
def Obligations.BitlenRegister : Prop :=
  ∀ (d : Word) (s : State),
    ((s.phase = .idle ∨ s.phase = .done) →
      exec (.wrBitlenLo d) s =
        .next { s with bitlen := BitVec.ofNat 64 (s.bitlen.toNat / 2 ^ 32 * 2 ^ 32 + d.toNat) } ∧
      exec (.wrBitlenHi d) s =
        .next { s with bitlen := BitVec.ofNat 64 (d.toNat * 2 ^ 32 + s.bitlen.toNat % 2 ^ 32) }) ∧
    (¬(s.phase = .idle ∨ s.phase = .done) → exec (.wrBitlenLo d) s = .next s ∧ exec (.wrBitlenHi d) s = .next s) ∧
    exec .rdBitlenLo s = .next { s with hostData := some (BitVec.ofNat 32 (s.bitlen.toNat % 2 ^ 32)) } ∧
    exec .rdBitlenHi s = .next { s with hostData := some (BitVec.ofNat 32 (s.bitlen.toNat / 2 ^ 32)) }

/-- 10_state R48: the two halves of `MWORDS`, written and read; bits 31:28 of the high half are ignored and read 0. -/
def Obligations.MwordsRegister : Prop :=
  ∀ (d : Word) (s : State),
    ((s.phase = .idle ∨ s.phase = .done) →
      exec (.wrMwordsLo d) s =
        .next { s with mwords := BitVec.ofNat 60 (s.mwords.toNat / 2 ^ 32 * 2 ^ 32 + d.toNat) } ∧
      exec (.wrMwordsHi d) s =
        .next { s with mwords := BitVec.ofNat 60 (d.toNat % 2 ^ 28 * 2 ^ 32 + s.mwords.toNat % 2 ^ 32) }) ∧
    (¬(s.phase = .idle ∨ s.phase = .done) → exec (.wrMwordsLo d) s = .next s ∧ exec (.wrMwordsHi d) s = .next s) ∧
    exec .rdMwordsLo s = .next { s with hostData := some (BitVec.ofNat 32 (s.mwords.toNat % 2 ^ 32)) } ∧
    exec .rdMwordsHi s = .next { s with hostData := some (BitVec.ofNat 32 (s.mwords.toNat / 2 ^ 32)) }

/-- 10_state R45: `STATUS` bit by bit; a read changes nothing else and a write is ignored. -/
def Obligations.StatusRegister : Prop :=
  ∀ (d : Word) (s : State),
    (∃ x : Word, exec .rdStatus s = .next { s with hostData := some x } ∧
      (x.getLsbD 0 = true ↔ s.phase ≠ .idle ∧ s.phase ≠ .done) ∧
      (x.getLsbD 1 = true ↔ s.phase = .done) ∧
      ∀ k, 2 ≤ k → x.getLsbD k = false) ∧
    exec (.wrStatus d) s = .next s

/-- 44_engine R196: the digest registers. -/
def Obligations.DigestRead : Prop :=
  ∀ (i : BitVec 3) (s : State),
    (s.phase ≠ .done → exec (.rdDigest i) s = .next { s with hostData := some 0 }) ∧
    (s.phase = .done → s.variant = 1 → i = 7 → exec (.rdDigest i) s = .next { s with hostData := some 0 }) ∧
    (s.phase = .done → ¬(s.variant = 1 ∧ i = 7) →
      exec (.rdDigest i) s = .next { s with hostData := some (s.h[i.toNat]'(i.isLt)) })

/-- 10_state R49: reserved and read-only registers, and reserved bits, read 0 and ignore writes at all times; `CTRL` reads 0;
numbers 16 and above, which have no code, behave the same (log entry 18). -/
def Obligations.ReservedAccessesDoNothing : Prop :=
  ∀ (s : State) (d : Word) (i : BitVec 3),
    (exec .rdCtrl s = .next { s with hostData := some 0 } ∧ exec .rdRsvd7 s = .next { s with hostData := some 0 } ∧
      exec (.wrStatus d) s = .next s ∧ exec (.wrRsvd7 d) s = .next s ∧ exec (.wrDigest i d) s = .next s) ∧
    (∀ regno rest, 16 ≤ regno →
      (s.turns = .host (.read regno) :: rest → step s = .next { s with hostData := some 0, turns := rest }) ∧
      (s.turns = .host (.write regno d) :: rest → step s = .next { s with turns := rest })) ∧
    (exec (.wrVariant d) s = exec (.wrVariant (d &&& 1)) s ∧
      exec (.wrMwordsHi d) s = exec (.wrMwordsHi (d &&& 0x0FFFFFFF)) s ∧
      (d.getLsbD 0 = true → exec (.start d) s = exec (.start 1) s)) ∧
    (∀ t x, exec .rdStatus s = .next t → t.hostData = some x → x &&& 0xFFFFFFFC = 0) ∧
    (∀ t x, exec .rdVariant s = .next t → t.hostData = some x → x &&& 0xFFFFFFFE = 0) ∧
    (∀ t x, exec .rdMwordsHi s = .next t → t.hostData = some x → x &&& 0xF0000000 = 0)

/-- 44_engine R206, 10_state R44: a read of any register number changes nothing but the value the host is given. -/
def Obligations.HostReadsChangeNothing : Prop :=
  ∀ (s : State) (regno : Nat) (rest : List Turn), s.turns = .host (.read regno) :: rest →
    ∃ x : Word, step s = .next { s with hostData := some x, turns := rest }

/-- 70_reset R257: while the engine is busy no host access changes anything but the value a read gives, and no step but a reset
changes `VARIANT`, `BITLEN` or `MWORDS`. -/
def Obligations.ConfigurationLockedWhileBusy : Prop :=
  ∀ (s : State), ¬(s.phase = .idle ∨ s.phase = .done) →
    (∀ a rest, s.turns = .host a :: rest → ∃ x, step s = .next { s with hostData := x, turns := rest }) ∧
    (∀ t, step s = .next t → (∀ rest, s.turns ≠ .reset :: rest) →
      t.bitlen = s.bitlen ∧ t.mwords = s.mwords ∧ t.variant = s.variant)

/-! ### Micro-operations -/

/-- 44_engine R197, R203: in IDLE and DONE the engine has no step and everything stays as it is. -/
def Obligations.RestingPhasesDoNothing : Prop :=
  ∀ s : State, exec .idle s = .next s ∧ exec .done s = .next s ∧
    ((s.phase = .idle ∨ s.phase = .done) → s.turns = [] → step s = .next s)

/-- 44_engine R198, with the initial vectors of 10_state R42 and R43 written out. -/
def Obligations.LoadivLoadsTheInitialVector : Prop :=
  ∀ s : State,
    (s.variant = 0 → exec .loadiv s = .next { s with
      h := #v[0x6a09e667, 0xbb67ae85, 0x3c6ef372, 0xa54ff53a, 0x510e527f, 0x9b05688c, 0x1f83d9ab, 0x5be0cd19],
      blk := 0, rnd := 0, phase := .fetch }) ∧
    (s.variant = 1 → exec .loadiv s = .next { s with
      h := #v[0xc1059ed8, 0x367cd507, 0x3070dd17, 0xf70e5939, 0xffc00b31, 0x68581511, 0x64f98fa7, 0xbefa4fa4],
      blk := 0, rnd := 0, phase := .fetch })

/-- 41_padding R146: FETCH writes one window register with the padded word, keeps the other fifteen, and moves on. -/
def Obligations.FetchStoresThePaddedWord : Prop :=
  ∀ s : State, ∃ w' : Words16,
    w'[s.rnd.toNat]'(s.rnd.isLt) = pad s.msg s.mwords s.bitlen (16 * s.blk.toNat + s.rnd.toNat) ∧
    (∀ j : Fin 16, j.val ≠ s.rnd.toNat → w'[j] = s.w[j]) ∧
    (s.rnd.toNat < 15 → exec .fetch s = .next { s with w := w', rnd := BitVec.ofNat 4 (s.rnd.toNat + 1) }) ∧
    (s.rnd.toNat = 15 → exec .fetch s = .next { s with w := w', phase := .initv })

/-- 43_compression R172. -/
def Obligations.InitvCopiesTheChain : Prop :=
  ∀ s : State, exec .initv s = .next { s with v := s.h, grp := 0, rnd := 0, phase := .round }

/-- 43_compression R171, R173 as ROUND uses them (R174), with the primitives written out as rotations of bit vectors. -/
def Obligations.RoundComputesTheRule : Prop :=
  ∀ (s : State) (a b c d e f g h t1 t2 : Word), s.v = #v[a, b, c, d, e, f, g, h] →
    t1 = h + (e.rotateRight 6 ^^^ e.rotateRight 11 ^^^ e.rotateRight 25) + ((e &&& f) ^^^ (~~~e &&& g)) +
      K (16 * s.grp.toNat + s.rnd.toNat) + s.w[s.rnd.toNat]'(s.rnd.isLt) →
    t2 = (a.rotateRight 2 ^^^ a.rotateRight 13 ^^^ a.rotateRight 22) + ((a &&& b) ^^^ (a &&& c) ^^^ (b &&& c)) →
    (s.rnd.toNat < 15 → exec .round s = .next { s with
      v := #v[t1 + t2, a, b, c, d + t1, e, f, g], rnd := BitVec.ofNat 4 (s.rnd.toNat + 1) }) ∧
    (s.rnd.toNat = 15 → s.grp.toNat < 3 → exec .round s = .next { s with
      v := #v[t1 + t2, a, b, c, d + t1, e, f, g], phase := .expand }) ∧
    (s.rnd.toNat = 15 → s.grp.toNat = 3 → exec .round s = .next { s with
      v := #v[t1 + t2, a, b, c, d + t1, e, f, g], phase := .feedfwd })

/-- 42_schedule R162 as EXPAND uses it (R165): the outputs, each from the old window and the outputs before it; the position moves to the next
group's first round. -/
def Obligations.ExpandAdvancesTheWindow : Prop :=
  ∀ s : State, ∃ o : Words16,
    exec .expand s = .next { s with w := o, grp := BitVec.ofNat 2 (s.grp.toNat + 1), rnd := 0, phase := .round } ∧
    ∀ j : Fin 16, o[j] =
      wi (if 2 ≤ j.val then o[j - 2] else s.w[j + 14]) (if 7 ≤ j.val then o[j - 7] else s.w[j + 9])
        (if j.val = 15 then o[(0 : Fin 16)] else s.w[j + 1]) s.w[j]

/-- 43_compression R176. -/
def Obligations.FeedfwdAddsAndGoesOn : Prop :=
  ∀ s : State, ∃ h' : Words8,
    (∀ i : Fin 8, h'[i] = BitVec.ofNat 32 ((s.h[i].toNat + s.v[i].toNat) % 2 ^ 32)) ∧
    (s.blk.toNat + 1 < padLen s.bitlen.toNat / 16 → exec .feedfwd s = .next { s with
      h := h', blk := BitVec.ofNat 56 (s.blk.toNat + 1), rnd := 0, phase := .fetch }) ∧
    (padLen s.bitlen.toNat / 16 ≤ s.blk.toNat + 1 → exec .feedfwd s = .next { s with h := h', phase := .done })

/-- 10_state R34: the complete transition table, for a legal position and the engine's turn. -/
def Obligations.PositionTable : Prop :=
  ∀ s t : State, legalPosition s → s.turns = [] → step s = .next t →
    (t.phase, t.blk, t.grp, t.rnd) =
      match s.phase with
      | .idle => (.idle, s.blk, s.grp, s.rnd)
      | .loadiv => (.fetch, 0, s.grp, 0)
      | .fetch => if s.rnd.toNat < 15 then (.fetch, s.blk, s.grp, s.rnd + 1) else (.initv, s.blk, s.grp, 15)
      | .initv => (.round, s.blk, 0, 0)
      | .round =>
        if s.rnd.toNat < 15 then (.round, s.blk, s.grp, s.rnd + 1)
        else if s.grp.toNat < 3 then (.expand, s.blk, s.grp, 15)
        else (.feedfwd, s.blk, 3, 15)
      | .expand => (.round, s.blk, s.grp + 1, 0)
      | .feedfwd =>
        if s.blk.toNat + 1 < nblk s.bitlen then (.fetch, s.blk + 1, s.grp, 0) else (.done, s.blk, s.grp, s.rnd)
      | .done => (.done, s.blk, s.grp, s.rnd)

/-- 10_state R24, read column: two states that agree on what a micro-operation reads get the same written values. -/
def Obligations.MicroOpsReadOnlyTheirOperands : Prop :=
  ∀ s t s' t' : State, s.turns = [] → t.turns = [] → s.phase = t.phase → step s = .next s' → step t = .next t' →
    match s.phase with
    | .idle | .done => s' = s ∧ t' = t
    | .loadiv => s.variant = t.variant → s'.h = t'.h ∧ s'.blk = t'.blk ∧ s'.rnd = t'.rnd ∧ s'.phase = t'.phase
    | .fetch =>
      s.bitlen = t.bitlen → s.mwords = t.mwords → s.blk = t.blk → s.rnd = t.rnd →
      (16 * s.blk.toNat + s.rnd.toNat ≤ s.bitlen.toNat / 32 → 16 * s.blk.toNat + s.rnd.toNat < s.mwords.toNat →
        memRead s.msg (16 * s.blk.toNat + s.rnd.toNat) = memRead t.msg (16 * s.blk.toNat + s.rnd.toNat)) →
      windowWord s'.w s.rnd = windowWord t'.w s.rnd ∧ s'.rnd = t'.rnd ∧ s'.phase = t'.phase
    | .initv => s.h = t.h → s'.v = t'.v ∧ s'.grp = t'.grp ∧ s'.rnd = t'.rnd ∧ s'.phase = t'.phase
    | .round =>
      s.v = t.v → windowWord s.w s.rnd = windowWord t.w s.rnd → s.grp = t.grp → s.rnd = t.rnd →
      s'.v = t'.v ∧ s'.rnd = t'.rnd ∧ s'.phase = t'.phase
    | .expand => s.w = t.w → s.grp = t.grp → s'.w = t'.w ∧ s'.grp = t'.grp ∧ s'.rnd = t'.rnd ∧ s'.phase = t'.phase
    | .feedfwd =>
      s.h = t.h → s.v = t.v → s.blk = t.blk → s.bitlen = t.bitlen →
      s'.h = t'.h ∧ s'.blk = t'.blk ∧ s'.phase = t'.phase ∧ (s'.phase = .fetch → s'.rnd = t'.rnd)

/-! ### Rules about the whole machine -/

/-- 10_state R21 to R24, write column: which steps can change each data register and each counter. -/
def Obligations.WhoWritesTheDatapath : Prop :=
  ∀ s t : State, step s = .next t → (nextTurn s).1 ≠ .reset →
    (t.h ≠ s.h → (nextTurn s).1 = .engine ∧ (s.phase = .loadiv ∨ s.phase = .feedfwd)) ∧
    (t.v ≠ s.v → (nextTurn s).1 = .engine ∧ (s.phase = .initv ∨ s.phase = .round)) ∧
    (t.w ≠ s.w → (nextTurn s).1 = .engine ∧ (s.phase = .fetch ∨ s.phase = .expand)) ∧
    (t.blk ≠ s.blk → (nextTurn s).1 = .engine ∧ (s.phase = .loadiv ∨ s.phase = .feedfwd)) ∧
    (t.grp ≠ s.grp → (nextTurn s).1 = .engine ∧ (s.phase = .initv ∨ s.phase = .expand)) ∧
    (t.rnd ≠ s.rnd → (nextTurn s).1 = .engine ∧ s.phase ≠ .idle ∧ s.phase ≠ .done)

/-- 44_engine R192, R203, R206; 10_state R34: IDLE and DONE are left only by an accepted START or a reset, a run is entered only
by START, and only a host write at rest or a reset changes a configuration register. -/
def Obligations.WhoControlsTheEngine : Prop :=
  ∀ s t : State, step s = .next t → (nextTurn s).1 ≠ .reset →
    ((s.phase = .idle ∨ s.phase = .done) → t.phase ≠ s.phase →
      t.phase = .loadiv ∧ ∃ d : Word, d.getLsbD 0 = true ∧ (nextTurn s).1 = .host (.write 0 d)) ∧
    (t.phase = .loadiv → s.phase ≠ .loadiv → s.phase = .idle ∨ s.phase = .done) ∧
    (t.phase ≠ .idle ∨ s.phase = .idle) ∧
    (t.variant ≠ s.variant → (s.phase = .idle ∨ s.phase = .done) ∧ ∃ d, (nextTurn s).1 = .host (.write 2 d)) ∧
    (t.bitlen ≠ s.bitlen → (s.phase = .idle ∨ s.phase = .done) ∧
      ∃ d, (nextTurn s).1 = .host (.write 3 d) ∨ (nextTurn s).1 = .host (.write 4 d)) ∧
    (t.mwords ≠ s.mwords → (s.phase = .idle ∨ s.phase = .done) ∧
      ∃ d, (nextTurn s).1 = .host (.write 5 d) ∨ (nextTurn s).1 = .host (.write 6 d))

/-- 20_memory R68, 70_reset R255: no engine step, host access or reset changes a byte of the message; only placing a word does,
at rest, and only at that word's four bytes. -/
def Obligations.OnlyPlacingChangesTheMessage : Prop :=
  ∀ (s t : State) (a : Nat), step s = .next t → Memory.readByte a t.msg ≠ Memory.readByte a s.msg →
    (s.phase = .idle ∨ s.phase = .done) ∧
      ∃ i value, (nextTurn s).1 = .place i value ∧ a / 4 = i.toNat

/-- 20_memory R61, 44_engine R206: at rest a message word can be placed; it is then what `MemRead` answers, every other word
answers as before, and nothing else changes. While the engine is busy the change has no meaning (log entries 5, 7, 8). -/
def Obligations.PlacedWordIsRead : Prop :=
  ∀ (s : State) (i : BitVec 60) (value : Word) (rest : List Turn), s.turns = .place i value :: rest →
    ((s.phase = .idle ∨ s.phase = .done) → Memory.wf s.msg = true →
      ∃ m, step s = .next { s with msg := m, turns := rest } ∧ Memory.wf m = true ∧ memRead m i.toNat = value ∧
        ∀ j, j ≠ i.toNat → memRead m j = memRead s.msg j) ∧
    (¬(s.phase = .idle ∨ s.phase = .done) → step s = .refused .messageChangedDuringRun)

/-- 10_state R32, R34; 42_schedule R165: every step keeps the sequencer at a legal position and the memory canonical. -/
def Obligations.EveryStepKeepsControlInv : Prop :=
  ∀ s t : State, controlInv s → step s = .next t → controlInv t

/-- 10_state R21 to R23, 44_engine R200: every step keeps the run invariant, so during a run `H`, `V` and `W` hold the chaining
state, the working variables and the schedule window the rules give for that position, whatever the host does meanwhile. -/
def Obligations.EveryStepKeepsRunInv : Prop :=
  ∀ s t : State, runInv s → step s = .next t → runInv t

/-- 44_engine R201, R202: the step that ends a run leaves the final chaining state of its input in `H`. -/
def Obligations.EnteringDoneLeavesTheDigest : Prop :=
  ∀ s t : State, runInv s → step s = .next t → s.phase ≠ .done → t.phase = .done →
    t.h = finalChain s.msg s.mwords s.bitlen s.variant ∧
    ∀ i : BitVec 3, digestWord t i = (digest s.msg s.mwords s.bitlen s.variant).getD i.toNat 0

/-! ### Primitives -/

/-- 40_primitives R123, R124, bit by bit: a rotation brings bit `(i + k) mod 32` to bit `i`; a shift brings bit `i + k`, and
zeros from above. -/
def Obligations.RotateAndShiftBits : Prop :=
  ∀ (k : Nat) (x : Word) (i : Nat), k < 32 → i < 32 →
    (rotr k x).getLsbD i = x.getLsbD ((i + k) % 32) ∧
    (shr k x).getLsbD i = (decide (i + k < 32) && x.getLsbD (i + k))

/-- 40_primitives R125, R126: choice takes `y` where `x` is 1 and `z` where it is 0; majority is 1 where at least two are, and is
symmetric. -/
def Obligations.ChoiceAndMajorityBits : Prop :=
  ∀ (x y z : Word), ch x y z = (x &&& y) ||| (~~~x &&& z) ∧
    (∀ i, i < 32 → (ch x y z).getLsbD i = (if x.getLsbD i then y.getLsbD i else z.getLsbD i)) ∧
    (∀ i, i < 32 → ((maj x y z).getLsbD i = true ↔
      2 ≤ (x.getLsbD i).toNat + (y.getLsbD i).toNat + (z.getLsbD i).toNat)) ∧
    maj x y z = maj y x z ∧ maj x y z = maj x z y

/-- 30_encoding R98 and 40_primitives R131: the twelve amounts, in terms of the bit-vector rotation and shift, and linearity over
`xor`. -/
def Obligations.SigmaFunctions : Prop :=
  (∀ x : Word,
    bigSigma0 x = x.rotateRight 2 ^^^ x.rotateRight 13 ^^^ x.rotateRight 22 ∧
    bigSigma1 x = x.rotateRight 6 ^^^ x.rotateRight 11 ^^^ x.rotateRight 25 ∧
    smallSigma0 x = x.rotateRight 7 ^^^ x.rotateRight 18 ^^^ x >>> 3 ∧
    smallSigma1 x = x.rotateRight 17 ^^^ x.rotateRight 19 ^^^ x >>> 10) ∧
  ∀ f ∈ [bigSigma0, bigSigma1, smallSigma0, smallSigma1], f 0 = 0 ∧ ∀ x y : Word, f (x ^^^ y) = f x ^^^ f y

/-! ### Padding -/

/-- 41_padding R141, R142, R145 (1), (2): the padded length, the number of blocks, and their bounds. -/
def Obligations.PaddedLengthIsLeast : Prop :=
  ∀ bitlen : BitVec 64,
    (32 * padLen bitlen.toNat : Int) = bitlen.toNat + (447 - (bitlen.toNat : Int)) % 512 + 65 ∧
    padLen bitlen.toNat = 16 * ((bitlen.toNat + 64) / 512 + 1) ∧
    (∀ m, bitlen.toNat + 65 ≤ 512 * m ↔ 32 * padLen bitlen.toNat ≤ 512 * m) ∧
    nblk bitlen * 16 = padLen bitlen.toNat ∧ 1 ≤ nblk bitlen ∧ nblk bitlen ≤ 2 ^ 55 + 1 ∧
    abi bitlen < padLen bitlen.toNat - 2

/-- 41_padding R143, 20_memory R70: the layout of the padded message, whatever the input. -/
def Obligations.PaddedLayout : Prop :=
  ∀ (m : Memory) (mwords : BitVec 60) (bitlen : BitVec 64) (i : Nat), i < padLen bitlen.toNat →
    (i < bitlen.toNat / 32 → pad m mwords bitlen i = if i < mwords.toNat then memRead m i else 0) ∧
    (bitlen.toNat / 32 < i → i < padLen bitlen.toNat - 2 → pad m mwords bitlen i = 0) ∧
    (i = padLen bitlen.toNat - 2 → (pad m mwords bitlen i).toNat = bitlen.toNat / 2 ^ 32) ∧
    (i = padLen bitlen.toNat - 1 → (pad m mwords bitlen i).toNat = bitlen.toNat % 2 ^ 32) ∧
    (i = bitlen.toNat / 32 → mwords.toNat ≤ i → pad m mwords bitlen i = 0x80000000) ∧
    (i = bitlen.toNat / 32 → i < mwords.toNat → ∀ k, k < 32 →
      (pad m mwords bitlen i).getLsbD k =
        if 31 - bitlen.toNat % 32 < k then (memRead m i).getLsbD k else decide (k = 31 - bitlen.toNat % 32))

/-- 41_padding R145 (7): for a valid input the padded message, read as bits, is the content, a 1, zeros, and the 64 bits of the
length, most significant first. -/
def Obligations.PaddedBitString : Prop :=
  ∀ (m : Memory) (mwords : BitVec 60) (bitlen : BitVec 64) (k : Nat), validInput mwords bitlen →
    k < 32 * padLen bitlen.toNat →
    paddedBit m mwords bitlen k =
      if k < bitlen.toNat then messageBit m k
      else if k = bitlen.toNat then true
      else if k < 32 * padLen bitlen.toNat - 64 then false
      else bitlen.getLsbD (32 * padLen bitlen.toNat - 1 - k)

/-- 41_padding R147: for valid inputs the padded words, and so the final chaining state, depend on the bit length and the first
`n` message bits alone. -/
def Obligations.BitsBeyondTheLengthAreIgnored : Prop :=
  ∀ (m m' : Memory) (mwords mwords' : BitVec 60) (bitlen : BitVec 64) (variant : BitVec 1),
    validInput mwords bitlen → validInput mwords' bitlen →
    (∀ k, k < bitlen.toNat → messageBit m k = messageBit m' k) →
    (∀ i, i < padLen bitlen.toNat → pad m mwords bitlen i = pad m' mwords' bitlen i) ∧
    finalChain m mwords bitlen variant = finalChain m' mwords' bitlen variant

/-! ### Schedule, compression, runs -/

/-- 42_schedule R164: the four windows of a block hold the 64-word schedule, for the recurrence written out. -/
def Obligations.WindowsHoldTheSchedule : Prop :=
  ∀ (B : Words16) (w : Nat → Word), (∀ j : Fin 16, w j.val = B[j]) →
    (∀ t, 16 ≤ t → t < 64 → w t = smallSigma1 (w (t - 2)) + w (t - 7) + smallSigma0 (w (t - 15)) + w (t - 16)) →
    ∀ (g : Nat) (j : Fin 16), g < 4 → (windowOf B g)[j] = w (16 * g + j.val)

/-- 43_compression R175, R177; 42_schedule R164; 70_reset R261: `compress`, four groups of sixteen rounds with the rolling window,
is 64 rounds `t = 0 .. 63` using `K[t]` and word `w[t]` of the full schedule. -/
def Obligations.CompressIsSixtyFourRounds : Prop :=
  ∀ (S : Words8) (B : Words16) (w : Nat → Word) (v : Nat → Words8), (∀ j : Fin 16, w j.val = B[j]) →
    (∀ t, 16 ≤ t → t < 64 → w t = smallSigma1 (w (t - 2)) + w (t - 7) + smallSigma0 (w (t - 15)) + w (t - 16)) →
    v 0 = S → (∀ t, t < 64 → v (t + 1) = roundFn (v t) (K t) (w t)) →
    ∀ i : Fin 8, (compress S B)[i] = S[i] + (v 64)[i]

/-- 43_compression R177: from INITV, 69 engine steps leave `compress(H, W)` in `H`, and the next position; the configuration, the
message and the host's datum are untouched. -/
def Obligations.CompressInSixtyNineSteps : Prop :=
  ∀ s : State, s.phase = .initv → s.turns = [] → ∃ v' w',
    runSteps 69 s = .next
      (if s.blk.toNat + 1 < nblk s.bitlen then
        { s with h := compress s.h s.w, v := v', w := w', grp := 3, blk := s.blk + 1, rnd := 0, phase := .fetch }
      else { s with h := compress s.h s.w, v := v', w := w', grp := 3, rnd := 15, phase := .done })

/-- 44_engine R200: the 85 steps of a block. -/
def Obligations.BlockInEightyFiveSteps : Prop :=
  ∀ s : State, s.phase = .fetch → s.rnd = 0 → s.turns = [] → ∃ v' w',
    runSteps 85 s = .next
      (if s.blk.toNat + 1 < nblk s.bitlen then
        { s with
          h := compress s.h (blockWords s.msg s.mwords s.bitlen s.blk.toNat), v := v', w := w', grp := 3,
          blk := s.blk + 1, rnd := 0, phase := .fetch }
      else
        { s with
          h := compress s.h (blockWords s.msg s.mwords s.bitlen s.blk.toNat), v := v', w := w', grp := 3,
          rnd := 15, phase := .done })

/-- 44_engine R194, R202: every run ends, after exactly `1 + 85 * NBLK` engine steps, with the final chaining state in `H` and the
input untouched; until then the engine is busy. -/
def Obligations.EveryRunEndsWithTheDigest : Prop :=
  ∀ s : State, s.phase = .loadiv → s.turns = [] →
    (∃ t, runSteps (1 + 85 * nblk s.bitlen) s = .next t ∧ t.phase = .done ∧
      t.h = finalChain s.msg s.mwords s.bitlen s.variant ∧ t.bitlen = s.bitlen ∧ t.mwords = s.mwords ∧
      t.variant = s.variant ∧ t.msg = s.msg ∧ t.hostData = s.hostData) ∧
    ∀ k, k ≤ 85 * nblk s.bitlen → ∃ u, runSteps k s = .next u ∧ u.phase ≠ .idle ∧ u.phase ≠ .done

/-- 44_engine R190, R191, R196: a call from any state at rest: START, the engine's steps, and a read of digest word `i` give the
host that word of `digest(M, MWORDS, n, variant)`, or 0 where the digest has no such word. -/
def Obligations.ACallReturnsTheDigest : Prop :=
  ∀ (s : State) (d : Word) (i : Fin 8), s.phase = .idle ∨ s.phase = .done → d.getLsbD 0 = true →
    s.turns = .host (.write 0 d) ::
      (List.replicate (1 + 85 * nblk s.bitlen) .engine ++ [.host (.read (8 + i.val))]) →
    ∃ t, runSteps (3 + 85 * nblk s.bitlen) s = .next t ∧
      t.hostData = some ((digest s.msg s.mwords s.bitlen s.variant).getD i.val 0)

/-- 44_engine R204: the result of a run depends on the message up to `ABI`, `MWORDS`, `BITLEN` and `VARIANT` alone, not on what any
register held before. -/
def Obligations.RunsDependOnTheirInputAlone : Prop :=
  ∀ s t : State, s.phase = .loadiv → t.phase = .loadiv → s.turns = [] → t.turns = [] →
    s.bitlen = t.bitlen → s.mwords = t.mwords → s.variant = t.variant →
    (∀ i, i ≤ s.bitlen.toNat / 32 → i < s.mwords.toNat → memRead s.msg i = memRead t.msg i) →
    ∃ s' t', runSteps (1 + 85 * nblk s.bitlen) s = .next s' ∧ runSteps (1 + 85 * nblk s.bitlen) t = .next t' ∧
      s'.phase = .done ∧ t'.phase = .done ∧ s'.h = t'.h ∧ ∀ i, digestWord s' i = digestWord t' i

/-- 60_exceptions R225, 44_engine R204: host accesses between the engine's steps of a run, any and anywhere, do not change the
run. -/
def Obligations.HostAccessesDoNotDisturbARun : Prop :=
  ∀ s : State, (∀ x ∈ s.turns, engineOrHost x = true) →
    (∀ k, k ≤ engineTurns s.turns → ∃ x, runSteps k s.alone = .next x ∧ x.phase ≠ .idle ∧ x.phase ≠ .done) →
    ∃ t u, runSteps s.turns.length s = .next t ∧ runSteps (engineTurns s.turns) s.alone = .next u ∧
      t.engineView = u.engineView

/-- 60_exceptions R232, 44_engine R205, 70_reset R259: without a read of a DIGEST register in DONE, what the host is told, the
phase and the counters a run has set do not depend on the message or on the data registers. A reset keeps this without a claim
about the counters, which 70_reset R250 leaves unspecified; in every other step counters that are equal stay equal. -/
def Obligations.OnlyDigestReadsRevealData : Prop :=
  ∀ (s t s' : State), publicEq s t → step s = .next s' →
    (s.phase = .done → readsDigest (nextTurn s).1 = false) →
    ∃ t', step t = .next t' ∧ publicEq s' t' ∧
      ((nextTurn s).1 ≠ .reset → s.blk = t.blk → s.grp = t.grp → s.rnd = t.rnd →
        s'.blk = t'.blk ∧ s'.grp = t'.grp ∧ s'.rnd = t'.rnd)

/-- 60_exceptions R233: all instances leave reset in IDLE; in any order of steps of several instances, each instance answers what
it would have answered alone, whatever becomes of the others. It rests on the model's choices that a platform is a list of
instances, one stepping at a time, each with its own copy of the message (log entry 16), and that an instance whose run was
refused stays refused (log entry 23). -/
def Obligations.InstancesDoNotInteract : Prop :=
  (∀ neng i : Nat, i < neng →
    ∃ s, (platformReset neng)[i]? = some (.next s) ∧ s.phase = .idle ∧ s.bitlen = 0 ∧ s.mwords = 0 ∧ s.variant = 0) ∧
  ∀ (order : List Nat) (p : List Result) (i : Nat),
    (∀ s, p[i]? = some (.next s) → (platformRun order p)[i]? = some (runSteps (order.count i) s)) ∧
    (∀ r, p[i]? = some (.refused r) → (platformRun order p)[i]? = some (.refused r))
end

