-- ==== Sys2Proof/Laws/Compression.lean ====
section
/-!
SUPPORT. What the shared operations of the compression round give.
-/

namespace Sys2Proof.Machine

/-- Each word of a sum is the sum of the words. -/
@[simp] theorem addWords_get (x y : Words8) (i : Fin 8) : (addWords x y)[i] = x[i] + y[i] := by
  obtain ⟨i, hi⟩ := i
  match i, hi with
  | 0, _ | 1, _ | 2, _ | 3, _ | 4, _ | 5, _ | 6, _ | 7, _ => rfl

theorem bigSigma0_apply (x : Word) : bigSigma0 x = rotr 2 x ^^^ rotr 13 x ^^^ rotr 22 x := rfl

theorem bigSigma1_apply (x : Word) : bigSigma1 x = rotr 6 x ^^^ rotr 11 x ^^^ rotr 25 x := rfl

theorem smallSigma0_apply (x : Word) : smallSigma0 x = rotr 7 x ^^^ rotr 18 x ^^^ shr 3 x := rfl

theorem smallSigma1_apply (x : Word) : smallSigma1 x = rotr 17 x ^^^ rotr 19 x ^^^ shr 10 x := rfl

end Sys2Proof.Machine
end

