-- ==== Sys2Proof/Laws/Word.lean ====
section
/-!
SUPPORT. Laws of words and their bytes.
-/

namespace Sys2Proof

/-- The four bytes of a word, most significant first, are the word. -/
theorem word_of_its_bytes (x : Word) :
    (x.extractLsb' 24 8 ++ x.extractLsb' 16 8 ++ x.extractLsb' 8 8 ++ x.extractLsb' 0 8 : BitVec (8 + 8 + 8 + 8)) = x := by
  apply BitVec.eq_of_getLsbD_eq
  intro k hk
  simp only [BitVec.getLsbD_append, BitVec.getLsbD_extractLsb']
  split
  · simp [*]
  · split
    · rw [show 8 + (k - 8) = k by omega]; simp [*]
    · split
      · rw [show 16 + (k - 8 - 8) = k by omega]; simp [*]
      · have : k - 8 - 8 - 8 < 8 := by omega
        rw [show 24 + (k - 8 - 8 - 8) = k by omega]; simp [*]

/-- The first byte of a word put together from four. -/
theorem extract_byte0 (d0 d1 d2 d3 : Byte) :
    (d3 ++ d2 ++ d1 ++ d0 : BitVec (8 + 8 + 8 + 8)).extractLsb' 0 8 = d0 := by
  apply BitVec.eq_of_getLsbD_eq
  intro k hk
  simp only [BitVec.getLsbD_append, BitVec.getLsbD_extractLsb', hk, decide_true, Bool.true_and, Nat.zero_add, if_true]

/-- The second byte of a word put together from four. -/
theorem extract_byte1 (d0 d1 d2 d3 : Byte) :
    (d3 ++ d2 ++ d1 ++ d0 : BitVec (8 + 8 + 8 + 8)).extractLsb' 8 8 = d1 := by
  apply BitVec.eq_of_getLsbD_eq
  intro k hk
  have h1 : ¬ 8 + k < 8 := by omega
  simp only [BitVec.getLsbD_append, BitVec.getLsbD_extractLsb', hk, decide_true, Bool.true_and, h1, if_true, if_false,
    show 8 + k - 8 = k by omega]

/-- The third byte of a word put together from four. -/
theorem extract_byte2 (d0 d1 d2 d3 : Byte) :
    (d3 ++ d2 ++ d1 ++ d0 : BitVec (8 + 8 + 8 + 8)).extractLsb' 16 8 = d2 := by
  apply BitVec.eq_of_getLsbD_eq
  intro k hk
  have h1 : ¬ 16 + k < 8 := by omega
  have h2 : ¬ 16 + k - 8 < 8 := by omega
  simp only [BitVec.getLsbD_append, BitVec.getLsbD_extractLsb', hk, decide_true, Bool.true_and, h1, h2, if_true,
    if_false, show 16 + k - 8 - 8 = k by omega]

/-- The fourth byte of a word put together from four. -/
theorem extract_byte3 (d0 d1 d2 d3 : Byte) :
    (d3 ++ d2 ++ d1 ++ d0 : BitVec (8 + 8 + 8 + 8)).extractLsb' 24 8 = d3 := by
  apply BitVec.eq_of_getLsbD_eq
  intro k hk
  have h1 : ¬ 24 + k < 8 := by omega
  have h2 : ¬ 24 + k - 8 < 8 := by omega
  have h3 : ¬ 24 + k - 8 - 8 < 8 := by omega
  simp only [BitVec.getLsbD_append, BitVec.getLsbD_extractLsb', hk, decide_true, Bool.true_and, h1, h2, h3, if_false,
    show 24 + k - 8 - 8 - 8 = k by omega]

end Sys2Proof
end

