-- ==== Sys2Proof/Laws/Decode.lean ====
section
/-!
SUPPORT. Small laws of the decoder and encoder.
-/

namespace Sys2Proof

/-- A datum put back together from its bytes. -/
theorem datumOfBytes_bytesOfDatum (d : Word) :
    datumOfBytes (d.extractLsb' 0 8) (d.extractLsb' 8 8) (d.extractLsb' 16 8) (d.extractLsb' 24 8) = d :=
  word_of_its_bytes d

/-- The bytes of a datum put together from four bytes. -/
theorem bytesOfDatum_datumOfBytes (d0 d1 d2 d3 : Byte) :
    bytesOfDatum (datumOfBytes d0 d1 d2 d3) = [d0, d1, d2, d3] := by
  simp only [bytesOfDatum, datumOfBytes, extract_byte0, extract_byte1, extract_byte2, extract_byte3]

/-- A datum's bytes decode to the write of that datum, whatever follows. -/
theorem decodeDatum_bytesOfDatum (regno : BitVec 4) (d : Word) (rest : List Byte) :
    decodeDatum regno (bytesOfDatum d ++ rest) = .ok (decodeWrite regno d, rest) := by
  show Except.ok (decodeWrite regno _, rest) = _
  rw [datumOfBytes_bytesOfDatum]

/-- A decoded datum was four bytes, and the instruction is the write of the word they are. -/
theorem decodeDatum_ok {regno : BitVec 4} {bs rest : List Byte} {i : Instr} (h : decodeDatum regno bs = .ok (i, rest)) :
    ∃ d : Word, bs = bytesOfDatum d ++ rest ∧ i = decodeWrite regno d := by
  match bs, h with
  | d0 :: d1 :: d2 :: d3 :: tl, h =>
    simp only [decodeDatum, Except.ok.injEq, Prod.mk.injEq] at h
    exact ⟨datumOfBytes d0 d1 d2 d3, by rw [bytesOfDatum_datumOfBytes, ← h.2]; rfl, h.1.symm⟩

/-- The micro-operation a phase's code names carries the phase's name. -/
theorem decodePhase3_code (p : Phase) :
    decodePhase3 p.code = match p with
      | .idle => .idle | .loadiv => .loadiv | .fetch => .fetch | .initv => .initv
      | .round => .round | .expand => .expand | .feedfwd => .feedfwd | .done => .done := by
  cases p <;> rfl

end Sys2Proof
end

