-- ==== Sys2Proof/Laws/Memory.lean ====
section
/-!
SUPPORT. The basic laws of the message memory: a read after a write, and that every operation keeps the canonical form.
-/

namespace Sys2Proof.Machine

theorem Memory.wfFrom_cons {lo a : Nat} {b : Byte} {m : Memory} :
    Memory.wfFrom lo ((a, b) :: m) = true ↔
      lo ≤ a ∧ a < memoryEnd ∧ b ≠ unplacedByte ∧ Memory.wfFrom (a + 1) m = true := by
  simp [Memory.wfFrom, and_assoc]

theorem Memory.wfFrom_mono {lo lo' : Nat} {m : Memory} (h : Memory.wfFrom lo m = true) (hl : lo' ≤ lo) :
    Memory.wfFrom lo' m = true := by
  cases m with
  | nil => rfl
  | cons c m =>
    rw [Memory.wfFrom_cons] at h ⊢
    exact ⟨hl.trans h.1, h.2⟩

/-- Below the lowest address of a canonical memory nothing is listed. -/
theorem Memory.readByte_below {lo a : Nat} {m : Memory} (h : Memory.wfFrom lo m = true) (ha : a < lo) :
    Memory.readByte a m = unplacedByte := by
  induction m generalizing lo with
  | nil => rfl
  | cons c m ih =>
    obtain ⟨a', b⟩ := c
    rw [Memory.wfFrom_cons] at h
    have hne : a' ≠ a := by omega
    simp only [Memory.readByte, hne, if_false]
    exact ih h.2.2.2 (by omega)

/-- A write keeps the canonical form. -/
theorem Memory.wfFrom_writeByte {lo a : Nat} {b : Byte} {m : Memory} (h : Memory.wfFrom lo m = true) (hl : lo ≤ a)
    (ha : a < memoryEnd) : Memory.wfFrom lo (Memory.writeByte a b m) = true := by
  induction m generalizing lo with
  | nil =>
    unfold Memory.writeByte
    split
    · rfl
    · rw [Memory.wfFrom_cons]; exact ⟨hl, ha, ‹_›, rfl⟩
  | cons c m ih =>
    obtain ⟨a', b'⟩ := c
    have h' := Memory.wfFrom_cons.1 h
    unfold Memory.writeByte
    split
    · split
      · exact h
      · rw [Memory.wfFrom_cons, Memory.wfFrom_cons]
        exact ⟨hl, ha, ‹_›, by omega, h'.2⟩
    · split
      · subst_vars
        split
        · exact Memory.wfFrom_mono h'.2.2.2 (by omega)
        · rw [Memory.wfFrom_cons]; exact ⟨hl, ha, ‹_›, h'.2.2.2⟩
      · rw [Memory.wfFrom_cons]
        exact ⟨h'.1, h'.2.1, h'.2.2.1, ih h'.2.2.2 (by omega)⟩

theorem Memory.wf_writeByte {a : Nat} {b : Byte} {m : Memory} (h : Memory.wf m = true) (ha : a < memoryEnd) :
    Memory.wf (Memory.writeByte a b m) = true :=
  Memory.wfFrom_writeByte h (Nat.zero_le a) ha

/-- A write leaves every other byte alone; this needs no canonical form. -/
theorem Memory.readByte_writeByte_other {a a' : Nat} {b : Byte} {m : Memory} (h : a' ≠ a) :
    Memory.readByte a' (Memory.writeByte a b m) = Memory.readByte a' m := by
  have h' : a ≠ a' := Ne.symm h
  induction m with
  | nil =>
    unfold Memory.writeByte
    split <;> simp [Memory.readByte, h']
  | cons c m ih =>
    obtain ⟨k, x⟩ := c
    unfold Memory.writeByte
    split
    · split <;> simp [Memory.readByte, h']
    · split
      · subst_vars; split <;> simp [Memory.readByte, h']
      · simp only [Memory.readByte, ih]

/-- A read after a write of the same byte gives the byte written. -/
theorem Memory.readByte_writeByte_same {lo a : Nat} {b : Byte} {m : Memory} (h : Memory.wfFrom lo m = true) :
    Memory.readByte a (Memory.writeByte a b m) = b := by
  induction m generalizing lo with
  | nil =>
    unfold Memory.writeByte
    split <;> simp_all [Memory.readByte]
  | cons c m ih =>
    obtain ⟨k, x⟩ := c
    have hc := Memory.wfFrom_cons.1 h
    unfold Memory.writeByte
    split
    · split
      · subst_vars
        have hk : k ≠ a := by omega
        simp only [Memory.readByte, hk, if_false]
        exact Memory.readByte_below hc.2.2.2 (by omega)
      · simp [Memory.readByte]
    · split
      · subst_vars
        split
        · subst_vars; exact Memory.readByte_below hc.2.2.2 (by omega)
        · simp [Memory.readByte]
      · have hk : k ≠ a := by omega
        simp only [Memory.readByte, hk, if_false]
        exact ih hc.2.2.2

/-- Placing a word keeps the canonical form, for every 60-bit word index. -/
theorem wf_memPlace {m : Memory} {i : Nat} {value : Word} (h : Memory.wf m = true) (hi : i < 2 ^ 60) :
    Memory.wf (memPlace m i value) = true := by
  have hend : 4 * i + 3 < memoryEnd := by unfold memoryEnd; omega
  unfold memPlace
  exact Memory.wf_writeByte (Memory.wf_writeByte (Memory.wf_writeByte (Memory.wf_writeByte h (by omega)) (by omega))
    (by omega)) (by omega)

/-- Placing word `i` leaves every byte outside its four alone. -/
theorem readByte_memPlace_other {m : Memory} {i a : Nat} {value : Word} (h : a / 4 ≠ i) :
    Memory.readByte a (memPlace m i value) = Memory.readByte a m := by
  unfold memPlace
  simp only []
  rw [Memory.readByte_writeByte_other (by omega), Memory.readByte_writeByte_other (by omega),
    Memory.readByte_writeByte_other (by omega), Memory.readByte_writeByte_other (by omega)]

/-- Every other word reads as before. -/
theorem memRead_memPlace_other {m : Memory} {i j : Nat} {value : Word} (h : j ≠ i) :
    memRead (memPlace m i value) j = memRead m j := by
  unfold memRead
  rw [readByte_memPlace_other (by omega), readByte_memPlace_other (by omega), readByte_memPlace_other (by omega),
    readByte_memPlace_other (by omega)]

/-- The placed word is what `MemRead` answers. -/
theorem memRead_memPlace_same {m : Memory} {i : Nat} {value : Word} (h : Memory.wf m = true) (hi : i < 2 ^ 60) :
    memRead (memPlace m i value) i = value := by
  have hend : 4 * i + 3 < memoryEnd := by unfold memoryEnd; omega
  have h0 := Memory.wf_writeByte (a := 4 * i) (b := value.extractLsb' 24 8) h (by omega)
  have h1 := Memory.wf_writeByte (a := 4 * i + 1) (b := value.extractLsb' 16 8) h0 (by omega)
  have h2 := Memory.wf_writeByte (a := 4 * i + 2) (b := value.extractLsb' 8 8) h1 (by omega)
  have r0 : Memory.readByte (4 * i) (memPlace m i value) = value.extractLsb' 24 8 := by
    unfold memPlace
    simp only []
    rw [Memory.readByte_writeByte_other (by omega), Memory.readByte_writeByte_other (by omega),
      Memory.readByte_writeByte_other (by omega), Memory.readByte_writeByte_same h]
  have r1 : Memory.readByte (4 * i + 1) (memPlace m i value) = value.extractLsb' 16 8 := by
    unfold memPlace
    simp only []
    rw [Memory.readByte_writeByte_other (by omega), Memory.readByte_writeByte_other (by omega),
      Memory.readByte_writeByte_same h0]
  have r2 : Memory.readByte (4 * i + 2) (memPlace m i value) = value.extractLsb' 8 8 := by
    unfold memPlace
    simp only []
    rw [Memory.readByte_writeByte_other (by omega), Memory.readByte_writeByte_same h1]
  have r3 : Memory.readByte (4 * i + 3) (memPlace m i value) = value.extractLsb' 0 8 := by
    unfold memPlace
    simp only []
    rw [Memory.readByte_writeByte_same h2]
  unfold memRead
  rw [r0, r1, r2, r3]
  exact word_of_its_bytes value

end Sys2Proof.Machine
end

