-- ==== Sys2Proof/Laws/State.lean ====
section
/-!
SUPPORT. One lemma per field per register writer of Machine/Ops.lean, true by `rfl`, so that no proof unfolds a record update.
-/

namespace Sys2Proof.Machine

@[simp] theorem setH_h (s : State) (x : Words8) : (s.setH x).h = x := rfl
@[simp] theorem setH_v (s : State) (x : Words8) : (s.setH x).v = s.v := rfl
@[simp] theorem setH_w (s : State) (x : Words8) : (s.setH x).w = s.w := rfl
@[simp] theorem setH_phase (s : State) (x : Words8) : (s.setH x).phase = s.phase := rfl
@[simp] theorem setH_blk (s : State) (x : Words8) : (s.setH x).blk = s.blk := rfl
@[simp] theorem setH_grp (s : State) (x : Words8) : (s.setH x).grp = s.grp := rfl
@[simp] theorem setH_rnd (s : State) (x : Words8) : (s.setH x).rnd = s.rnd := rfl
@[simp] theorem setH_bitlen (s : State) (x : Words8) : (s.setH x).bitlen = s.bitlen := rfl
@[simp] theorem setH_mwords (s : State) (x : Words8) : (s.setH x).mwords = s.mwords := rfl
@[simp] theorem setH_variant (s : State) (x : Words8) : (s.setH x).variant = s.variant := rfl
@[simp] theorem setH_msg (s : State) (x : Words8) : (s.setH x).msg = s.msg := rfl
@[simp] theorem setH_hostData (s : State) (x : Words8) : (s.setH x).hostData = s.hostData := rfl
@[simp] theorem setH_turns (s : State) (x : Words8) : (s.setH x).turns = s.turns := rfl
@[simp] theorem setH_freeCtr (s : State) (x : Words8) : (s.setH x).freeCtr = s.freeCtr := rfl
@[simp] theorem setH_engineId (s : State) (x : Words8) : (s.setH x).engineId = s.engineId := rfl

@[simp] theorem setV_h (s : State) (x : Words8) : (s.setV x).h = s.h := rfl
@[simp] theorem setV_v (s : State) (x : Words8) : (s.setV x).v = x := rfl
@[simp] theorem setV_w (s : State) (x : Words8) : (s.setV x).w = s.w := rfl
@[simp] theorem setV_phase (s : State) (x : Words8) : (s.setV x).phase = s.phase := rfl
@[simp] theorem setV_blk (s : State) (x : Words8) : (s.setV x).blk = s.blk := rfl
@[simp] theorem setV_grp (s : State) (x : Words8) : (s.setV x).grp = s.grp := rfl
@[simp] theorem setV_rnd (s : State) (x : Words8) : (s.setV x).rnd = s.rnd := rfl
@[simp] theorem setV_bitlen (s : State) (x : Words8) : (s.setV x).bitlen = s.bitlen := rfl
@[simp] theorem setV_mwords (s : State) (x : Words8) : (s.setV x).mwords = s.mwords := rfl
@[simp] theorem setV_variant (s : State) (x : Words8) : (s.setV x).variant = s.variant := rfl
@[simp] theorem setV_msg (s : State) (x : Words8) : (s.setV x).msg = s.msg := rfl
@[simp] theorem setV_hostData (s : State) (x : Words8) : (s.setV x).hostData = s.hostData := rfl
@[simp] theorem setV_turns (s : State) (x : Words8) : (s.setV x).turns = s.turns := rfl
@[simp] theorem setV_freeCtr (s : State) (x : Words8) : (s.setV x).freeCtr = s.freeCtr := rfl
@[simp] theorem setV_engineId (s : State) (x : Words8) : (s.setV x).engineId = s.engineId := rfl

@[simp] theorem setW_h (s : State) (x : Words16) : (s.setW x).h = s.h := rfl
@[simp] theorem setW_v (s : State) (x : Words16) : (s.setW x).v = s.v := rfl
@[simp] theorem setW_w (s : State) (x : Words16) : (s.setW x).w = x := rfl
@[simp] theorem setW_phase (s : State) (x : Words16) : (s.setW x).phase = s.phase := rfl
@[simp] theorem setW_blk (s : State) (x : Words16) : (s.setW x).blk = s.blk := rfl
@[simp] theorem setW_grp (s : State) (x : Words16) : (s.setW x).grp = s.grp := rfl
@[simp] theorem setW_rnd (s : State) (x : Words16) : (s.setW x).rnd = s.rnd := rfl
@[simp] theorem setW_bitlen (s : State) (x : Words16) : (s.setW x).bitlen = s.bitlen := rfl
@[simp] theorem setW_mwords (s : State) (x : Words16) : (s.setW x).mwords = s.mwords := rfl
@[simp] theorem setW_variant (s : State) (x : Words16) : (s.setW x).variant = s.variant := rfl
@[simp] theorem setW_msg (s : State) (x : Words16) : (s.setW x).msg = s.msg := rfl
@[simp] theorem setW_hostData (s : State) (x : Words16) : (s.setW x).hostData = s.hostData := rfl
@[simp] theorem setW_turns (s : State) (x : Words16) : (s.setW x).turns = s.turns := rfl
@[simp] theorem setW_freeCtr (s : State) (x : Words16) : (s.setW x).freeCtr = s.freeCtr := rfl
@[simp] theorem setW_engineId (s : State) (x : Words16) : (s.setW x).engineId = s.engineId := rfl

@[simp] theorem setPhase_h (s : State) (x : Phase) : (s.setPhase x).h = s.h := rfl
@[simp] theorem setPhase_v (s : State) (x : Phase) : (s.setPhase x).v = s.v := rfl
@[simp] theorem setPhase_w (s : State) (x : Phase) : (s.setPhase x).w = s.w := rfl
@[simp] theorem setPhase_phase (s : State) (x : Phase) : (s.setPhase x).phase = x := rfl
@[simp] theorem setPhase_blk (s : State) (x : Phase) : (s.setPhase x).blk = s.blk := rfl
@[simp] theorem setPhase_grp (s : State) (x : Phase) : (s.setPhase x).grp = s.grp := rfl
@[simp] theorem setPhase_rnd (s : State) (x : Phase) : (s.setPhase x).rnd = s.rnd := rfl
@[simp] theorem setPhase_bitlen (s : State) (x : Phase) : (s.setPhase x).bitlen = s.bitlen := rfl
@[simp] theorem setPhase_mwords (s : State) (x : Phase) : (s.setPhase x).mwords = s.mwords := rfl
@[simp] theorem setPhase_variant (s : State) (x : Phase) : (s.setPhase x).variant = s.variant := rfl
@[simp] theorem setPhase_msg (s : State) (x : Phase) : (s.setPhase x).msg = s.msg := rfl
@[simp] theorem setPhase_hostData (s : State) (x : Phase) : (s.setPhase x).hostData = s.hostData := rfl
@[simp] theorem setPhase_turns (s : State) (x : Phase) : (s.setPhase x).turns = s.turns := rfl
@[simp] theorem setPhase_freeCtr (s : State) (x : Phase) : (s.setPhase x).freeCtr = s.freeCtr := rfl
@[simp] theorem setPhase_engineId (s : State) (x : Phase) : (s.setPhase x).engineId = s.engineId := rfl

@[simp] theorem setBlk_h (s : State) (x : BitVec 56) : (s.setBlk x).h = s.h := rfl
@[simp] theorem setBlk_v (s : State) (x : BitVec 56) : (s.setBlk x).v = s.v := rfl
@[simp] theorem setBlk_w (s : State) (x : BitVec 56) : (s.setBlk x).w = s.w := rfl
@[simp] theorem setBlk_phase (s : State) (x : BitVec 56) : (s.setBlk x).phase = s.phase := rfl
@[simp] theorem setBlk_blk (s : State) (x : BitVec 56) : (s.setBlk x).blk = x := rfl
@[simp] theorem setBlk_grp (s : State) (x : BitVec 56) : (s.setBlk x).grp = s.grp := rfl
@[simp] theorem setBlk_rnd (s : State) (x : BitVec 56) : (s.setBlk x).rnd = s.rnd := rfl
@[simp] theorem setBlk_bitlen (s : State) (x : BitVec 56) : (s.setBlk x).bitlen = s.bitlen := rfl
@[simp] theorem setBlk_mwords (s : State) (x : BitVec 56) : (s.setBlk x).mwords = s.mwords := rfl
@[simp] theorem setBlk_variant (s : State) (x : BitVec 56) : (s.setBlk x).variant = s.variant := rfl
@[simp] theorem setBlk_msg (s : State) (x : BitVec 56) : (s.setBlk x).msg = s.msg := rfl
@[simp] theorem setBlk_hostData (s : State) (x : BitVec 56) : (s.setBlk x).hostData = s.hostData := rfl
@[simp] theorem setBlk_turns (s : State) (x : BitVec 56) : (s.setBlk x).turns = s.turns := rfl
@[simp] theorem setBlk_freeCtr (s : State) (x : BitVec 56) : (s.setBlk x).freeCtr = s.freeCtr := rfl
@[simp] theorem setBlk_engineId (s : State) (x : BitVec 56) : (s.setBlk x).engineId = s.engineId := rfl

@[simp] theorem setGrp_h (s : State) (x : BitVec 2) : (s.setGrp x).h = s.h := rfl
@[simp] theorem setGrp_v (s : State) (x : BitVec 2) : (s.setGrp x).v = s.v := rfl
@[simp] theorem setGrp_w (s : State) (x : BitVec 2) : (s.setGrp x).w = s.w := rfl
@[simp] theorem setGrp_phase (s : State) (x : BitVec 2) : (s.setGrp x).phase = s.phase := rfl
@[simp] theorem setGrp_blk (s : State) (x : BitVec 2) : (s.setGrp x).blk = s.blk := rfl
@[simp] theorem setGrp_grp (s : State) (x : BitVec 2) : (s.setGrp x).grp = x := rfl
@[simp] theorem setGrp_rnd (s : State) (x : BitVec 2) : (s.setGrp x).rnd = s.rnd := rfl
@[simp] theorem setGrp_bitlen (s : State) (x : BitVec 2) : (s.setGrp x).bitlen = s.bitlen := rfl
@[simp] theorem setGrp_mwords (s : State) (x : BitVec 2) : (s.setGrp x).mwords = s.mwords := rfl
@[simp] theorem setGrp_variant (s : State) (x : BitVec 2) : (s.setGrp x).variant = s.variant := rfl
@[simp] theorem setGrp_msg (s : State) (x : BitVec 2) : (s.setGrp x).msg = s.msg := rfl
@[simp] theorem setGrp_hostData (s : State) (x : BitVec 2) : (s.setGrp x).hostData = s.hostData := rfl
@[simp] theorem setGrp_turns (s : State) (x : BitVec 2) : (s.setGrp x).turns = s.turns := rfl
@[simp] theorem setGrp_freeCtr (s : State) (x : BitVec 2) : (s.setGrp x).freeCtr = s.freeCtr := rfl
@[simp] theorem setGrp_engineId (s : State) (x : BitVec 2) : (s.setGrp x).engineId = s.engineId := rfl

@[simp] theorem setRnd_h (s : State) (x : BitVec 4) : (s.setRnd x).h = s.h := rfl
@[simp] theorem setRnd_v (s : State) (x : BitVec 4) : (s.setRnd x).v = s.v := rfl
@[simp] theorem setRnd_w (s : State) (x : BitVec 4) : (s.setRnd x).w = s.w := rfl
@[simp] theorem setRnd_phase (s : State) (x : BitVec 4) : (s.setRnd x).phase = s.phase := rfl
@[simp] theorem setRnd_blk (s : State) (x : BitVec 4) : (s.setRnd x).blk = s.blk := rfl
@[simp] theorem setRnd_grp (s : State) (x : BitVec 4) : (s.setRnd x).grp = s.grp := rfl
@[simp] theorem setRnd_rnd (s : State) (x : BitVec 4) : (s.setRnd x).rnd = x := rfl
@[simp] theorem setRnd_bitlen (s : State) (x : BitVec 4) : (s.setRnd x).bitlen = s.bitlen := rfl
@[simp] theorem setRnd_mwords (s : State) (x : BitVec 4) : (s.setRnd x).mwords = s.mwords := rfl
@[simp] theorem setRnd_variant (s : State) (x : BitVec 4) : (s.setRnd x).variant = s.variant := rfl
@[simp] theorem setRnd_msg (s : State) (x : BitVec 4) : (s.setRnd x).msg = s.msg := rfl
@[simp] theorem setRnd_hostData (s : State) (x : BitVec 4) : (s.setRnd x).hostData = s.hostData := rfl
@[simp] theorem setRnd_turns (s : State) (x : BitVec 4) : (s.setRnd x).turns = s.turns := rfl
@[simp] theorem setRnd_freeCtr (s : State) (x : BitVec 4) : (s.setRnd x).freeCtr = s.freeCtr := rfl
@[simp] theorem setRnd_engineId (s : State) (x : BitVec 4) : (s.setRnd x).engineId = s.engineId := rfl

@[simp] theorem setBitlen_h (s : State) (x : BitVec 64) : (s.setBitlen x).h = s.h := rfl
@[simp] theorem setBitlen_v (s : State) (x : BitVec 64) : (s.setBitlen x).v = s.v := rfl
@[simp] theorem setBitlen_w (s : State) (x : BitVec 64) : (s.setBitlen x).w = s.w := rfl
@[simp] theorem setBitlen_phase (s : State) (x : BitVec 64) : (s.setBitlen x).phase = s.phase := rfl
@[simp] theorem setBitlen_blk (s : State) (x : BitVec 64) : (s.setBitlen x).blk = s.blk := rfl
@[simp] theorem setBitlen_grp (s : State) (x : BitVec 64) : (s.setBitlen x).grp = s.grp := rfl
@[simp] theorem setBitlen_rnd (s : State) (x : BitVec 64) : (s.setBitlen x).rnd = s.rnd := rfl
@[simp] theorem setBitlen_bitlen (s : State) (x : BitVec 64) : (s.setBitlen x).bitlen = x := rfl
@[simp] theorem setBitlen_mwords (s : State) (x : BitVec 64) : (s.setBitlen x).mwords = s.mwords := rfl
@[simp] theorem setBitlen_variant (s : State) (x : BitVec 64) : (s.setBitlen x).variant = s.variant := rfl
@[simp] theorem setBitlen_msg (s : State) (x : BitVec 64) : (s.setBitlen x).msg = s.msg := rfl
@[simp] theorem setBitlen_hostData (s : State) (x : BitVec 64) : (s.setBitlen x).hostData = s.hostData := rfl
@[simp] theorem setBitlen_turns (s : State) (x : BitVec 64) : (s.setBitlen x).turns = s.turns := rfl
@[simp] theorem setBitlen_freeCtr (s : State) (x : BitVec 64) : (s.setBitlen x).freeCtr = s.freeCtr := rfl
@[simp] theorem setBitlen_engineId (s : State) (x : BitVec 64) : (s.setBitlen x).engineId = s.engineId := rfl

@[simp] theorem setMwords_h (s : State) (x : BitVec 60) : (s.setMwords x).h = s.h := rfl
@[simp] theorem setMwords_v (s : State) (x : BitVec 60) : (s.setMwords x).v = s.v := rfl
@[simp] theorem setMwords_w (s : State) (x : BitVec 60) : (s.setMwords x).w = s.w := rfl
@[simp] theorem setMwords_phase (s : State) (x : BitVec 60) : (s.setMwords x).phase = s.phase := rfl
@[simp] theorem setMwords_blk (s : State) (x : BitVec 60) : (s.setMwords x).blk = s.blk := rfl
@[simp] theorem setMwords_grp (s : State) (x : BitVec 60) : (s.setMwords x).grp = s.grp := rfl
@[simp] theorem setMwords_rnd (s : State) (x : BitVec 60) : (s.setMwords x).rnd = s.rnd := rfl
@[simp] theorem setMwords_bitlen (s : State) (x : BitVec 60) : (s.setMwords x).bitlen = s.bitlen := rfl
@[simp] theorem setMwords_mwords (s : State) (x : BitVec 60) : (s.setMwords x).mwords = x := rfl
@[simp] theorem setMwords_variant (s : State) (x : BitVec 60) : (s.setMwords x).variant = s.variant := rfl
@[simp] theorem setMwords_msg (s : State) (x : BitVec 60) : (s.setMwords x).msg = s.msg := rfl
@[simp] theorem setMwords_hostData (s : State) (x : BitVec 60) : (s.setMwords x).hostData = s.hostData := rfl
@[simp] theorem setMwords_turns (s : State) (x : BitVec 60) : (s.setMwords x).turns = s.turns := rfl
@[simp] theorem setMwords_freeCtr (s : State) (x : BitVec 60) : (s.setMwords x).freeCtr = s.freeCtr := rfl
@[simp] theorem setMwords_engineId (s : State) (x : BitVec 60) : (s.setMwords x).engineId = s.engineId := rfl

@[simp] theorem setVariant_h (s : State) (x : BitVec 1) : (s.setVariant x).h = s.h := rfl
@[simp] theorem setVariant_v (s : State) (x : BitVec 1) : (s.setVariant x).v = s.v := rfl
@[simp] theorem setVariant_w (s : State) (x : BitVec 1) : (s.setVariant x).w = s.w := rfl
@[simp] theorem setVariant_phase (s : State) (x : BitVec 1) : (s.setVariant x).phase = s.phase := rfl
@[simp] theorem setVariant_blk (s : State) (x : BitVec 1) : (s.setVariant x).blk = s.blk := rfl
@[simp] theorem setVariant_grp (s : State) (x : BitVec 1) : (s.setVariant x).grp = s.grp := rfl
@[simp] theorem setVariant_rnd (s : State) (x : BitVec 1) : (s.setVariant x).rnd = s.rnd := rfl
@[simp] theorem setVariant_bitlen (s : State) (x : BitVec 1) : (s.setVariant x).bitlen = s.bitlen := rfl
@[simp] theorem setVariant_mwords (s : State) (x : BitVec 1) : (s.setVariant x).mwords = s.mwords := rfl
@[simp] theorem setVariant_variant (s : State) (x : BitVec 1) : (s.setVariant x).variant = x := rfl
@[simp] theorem setVariant_msg (s : State) (x : BitVec 1) : (s.setVariant x).msg = s.msg := rfl
@[simp] theorem setVariant_hostData (s : State) (x : BitVec 1) : (s.setVariant x).hostData = s.hostData := rfl
@[simp] theorem setVariant_turns (s : State) (x : BitVec 1) : (s.setVariant x).turns = s.turns := rfl
@[simp] theorem setVariant_freeCtr (s : State) (x : BitVec 1) : (s.setVariant x).freeCtr = s.freeCtr := rfl
@[simp] theorem setVariant_engineId (s : State) (x : BitVec 1) : (s.setVariant x).engineId = s.engineId := rfl

@[simp] theorem setMsg_h (s : State) (x : Memory) : (s.setMsg x).h = s.h := rfl
@[simp] theorem setMsg_v (s : State) (x : Memory) : (s.setMsg x).v = s.v := rfl
@[simp] theorem setMsg_w (s : State) (x : Memory) : (s.setMsg x).w = s.w := rfl
@[simp] theorem setMsg_phase (s : State) (x : Memory) : (s.setMsg x).phase = s.phase := rfl
@[simp] theorem setMsg_blk (s : State) (x : Memory) : (s.setMsg x).blk = s.blk := rfl
@[simp] theorem setMsg_grp (s : State) (x : Memory) : (s.setMsg x).grp = s.grp := rfl
@[simp] theorem setMsg_rnd (s : State) (x : Memory) : (s.setMsg x).rnd = s.rnd := rfl
@[simp] theorem setMsg_bitlen (s : State) (x : Memory) : (s.setMsg x).bitlen = s.bitlen := rfl
@[simp] theorem setMsg_mwords (s : State) (x : Memory) : (s.setMsg x).mwords = s.mwords := rfl
@[simp] theorem setMsg_variant (s : State) (x : Memory) : (s.setMsg x).variant = s.variant := rfl
@[simp] theorem setMsg_msg (s : State) (x : Memory) : (s.setMsg x).msg = x := rfl
@[simp] theorem setMsg_hostData (s : State) (x : Memory) : (s.setMsg x).hostData = s.hostData := rfl
@[simp] theorem setMsg_turns (s : State) (x : Memory) : (s.setMsg x).turns = s.turns := rfl
@[simp] theorem setMsg_freeCtr (s : State) (x : Memory) : (s.setMsg x).freeCtr = s.freeCtr := rfl
@[simp] theorem setMsg_engineId (s : State) (x : Memory) : (s.setMsg x).engineId = s.engineId := rfl

@[simp] theorem setHostData_h (s : State) (x : Word) : (s.setHostData x).h = s.h := rfl
@[simp] theorem setHostData_v (s : State) (x : Word) : (s.setHostData x).v = s.v := rfl
@[simp] theorem setHostData_w (s : State) (x : Word) : (s.setHostData x).w = s.w := rfl
@[simp] theorem setHostData_phase (s : State) (x : Word) : (s.setHostData x).phase = s.phase := rfl
@[simp] theorem setHostData_blk (s : State) (x : Word) : (s.setHostData x).blk = s.blk := rfl
@[simp] theorem setHostData_grp (s : State) (x : Word) : (s.setHostData x).grp = s.grp := rfl
@[simp] theorem setHostData_rnd (s : State) (x : Word) : (s.setHostData x).rnd = s.rnd := rfl
@[simp] theorem setHostData_bitlen (s : State) (x : Word) : (s.setHostData x).bitlen = s.bitlen := rfl
@[simp] theorem setHostData_mwords (s : State) (x : Word) : (s.setHostData x).mwords = s.mwords := rfl
@[simp] theorem setHostData_variant (s : State) (x : Word) : (s.setHostData x).variant = s.variant := rfl
@[simp] theorem setHostData_msg (s : State) (x : Word) : (s.setHostData x).msg = s.msg := rfl
@[simp] theorem setHostData_hostData (s : State) (x : Word) : (s.setHostData x).hostData = some x := rfl
@[simp] theorem setHostData_turns (s : State) (x : Word) : (s.setHostData x).turns = s.turns := rfl
@[simp] theorem setHostData_freeCtr (s : State) (x : Word) : (s.setHostData x).freeCtr = s.freeCtr := rfl
@[simp] theorem setHostData_engineId (s : State) (x : Word) : (s.setHostData x).engineId = s.engineId := rfl

@[simp] theorem setTurns_h (s : State) (x : List Turn) : (s.setTurns x).h = s.h := rfl
@[simp] theorem setTurns_v (s : State) (x : List Turn) : (s.setTurns x).v = s.v := rfl
@[simp] theorem setTurns_w (s : State) (x : List Turn) : (s.setTurns x).w = s.w := rfl
@[simp] theorem setTurns_phase (s : State) (x : List Turn) : (s.setTurns x).phase = s.phase := rfl
@[simp] theorem setTurns_blk (s : State) (x : List Turn) : (s.setTurns x).blk = s.blk := rfl
@[simp] theorem setTurns_grp (s : State) (x : List Turn) : (s.setTurns x).grp = s.grp := rfl
@[simp] theorem setTurns_rnd (s : State) (x : List Turn) : (s.setTurns x).rnd = s.rnd := rfl
@[simp] theorem setTurns_bitlen (s : State) (x : List Turn) : (s.setTurns x).bitlen = s.bitlen := rfl
@[simp] theorem setTurns_mwords (s : State) (x : List Turn) : (s.setTurns x).mwords = s.mwords := rfl
@[simp] theorem setTurns_variant (s : State) (x : List Turn) : (s.setTurns x).variant = s.variant := rfl
@[simp] theorem setTurns_msg (s : State) (x : List Turn) : (s.setTurns x).msg = s.msg := rfl
@[simp] theorem setTurns_hostData (s : State) (x : List Turn) : (s.setTurns x).hostData = s.hostData := rfl
@[simp] theorem setTurns_turns (s : State) (x : List Turn) : (s.setTurns x).turns = x := rfl
@[simp] theorem setTurns_freeCtr (s : State) (x : List Turn) : (s.setTurns x).freeCtr = s.freeCtr := rfl
@[simp] theorem setTurns_engineId (s : State) (x : List Turn) : (s.setTurns x).engineId = s.engineId := rfl

@[simp] theorem bumpFree_h (s : State) : s.bumpFree.h = s.h := rfl
@[simp] theorem bumpFree_v (s : State) : s.bumpFree.v = s.v := rfl
@[simp] theorem bumpFree_w (s : State) : s.bumpFree.w = s.w := rfl
@[simp] theorem bumpFree_phase (s : State) : s.bumpFree.phase = s.phase := rfl
@[simp] theorem bumpFree_blk (s : State) : s.bumpFree.blk = s.blk := rfl
@[simp] theorem bumpFree_grp (s : State) : s.bumpFree.grp = s.grp := rfl
@[simp] theorem bumpFree_rnd (s : State) : s.bumpFree.rnd = s.rnd := rfl
@[simp] theorem bumpFree_bitlen (s : State) : s.bumpFree.bitlen = s.bitlen := rfl
@[simp] theorem bumpFree_mwords (s : State) : s.bumpFree.mwords = s.mwords := rfl
@[simp] theorem bumpFree_variant (s : State) : s.bumpFree.variant = s.variant := rfl
@[simp] theorem bumpFree_msg (s : State) : s.bumpFree.msg = s.msg := rfl
@[simp] theorem bumpFree_hostData (s : State) : s.bumpFree.hostData = s.hostData := rfl
@[simp] theorem bumpFree_turns (s : State) : s.bumpFree.turns = s.turns := rfl
@[simp] theorem bumpFree_freeCtr (s : State) : s.bumpFree.freeCtr = s.freeCtr + 1 := rfl
@[simp] theorem bumpFree_engineId (s : State) : s.bumpFree.engineId = s.engineId := rfl

end Sys2Proof.Machine
end

