-- ==== Sys2Proof/Laws/Ops.lean ====
section
/-!
SUPPORT. For each shared operation, once, everything it can do.
-/

namespace Sys2Proof.Machine

/-- `BUSY = 0` exactly in IDLE and DONE (10_state R35). -/
theorem busy_eq_false {s : State} : s.busy = false ↔ s.phase = .idle ∨ s.phase = .done := by
  unfold State.busy
  cases s.phase <;> simp [phaseBusy]

theorem busy_eq_true {s : State} : s.busy = true ↔ ¬(s.phase = .idle ∨ s.phase = .done) := by
  rw [← busy_eq_false]; simp

theorem hostAnswer_next {x : Word} {s t : State} (h : hostAnswer x s = .next t) : t = s.setHostData x := by
  simpa [hostAnswer] using h.symm

theorem ignoredWrite_next {s t : State} (h : ignoredWrite s = .next t) : t = s := by
  simpa [ignoredWrite] using h.symm

/-- A configuration write is done at rest and ignored while busy. -/
theorem configWrite_next {written s t : State} (h : configWrite written s = .next t) :
    (s.busy = true ∧ t = s) ∨ (s.busy = false ∧ t = written) := by
  unfold configWrite at h
  cases hb : s.busy <;> simp [hb] at h <;> simp [h]

/-- A CTRL write starts a run at rest with bit 0 set, and otherwise does nothing. -/
theorem writeCtrl_next {v : Word} {s t : State} (h : writeCtrl v s = .next t) :
    (v.getLsbD 0 = true ∧ s.busy = false ∧ t = s.setPhase .loadiv) ∨ ((v.getLsbD 0 = false ∨ s.busy = true) ∧ t = s) := by
  simp only [writeCtrl, Host.Outcome.next.injEq] at h
  split at h
  · rename_i hc
    rw [Bool.and_eq_true, Bool.not_eq_true'] at hc
    exact .inl ⟨hc.1, hc.2, h.symm⟩
  · rename_i hc
    refine .inr ⟨?_, h.symm⟩
    cases hv : v.getLsbD 0 <;> cases hb : s.busy <;> simp_all

/-- Placing a message word is done at rest and refused while busy. -/
theorem placeWord_cases (i : BitVec 60) (value : Word) (s : State) :
    (s.busy = false ∧ placeWord i value s = .next (s.setMsg (memPlace s.msg i.toNat value))) ∨
    (s.busy = true ∧ placeWord i value s = .refused .messageChangedDuringRun) := by
  unfold placeWord
  cases s.busy <;> simp

@[simp] theorem resetEvent_phase (s : State) : (resetEvent s).phase = .idle := rfl
@[simp] theorem resetEvent_bitlen (s : State) : (resetEvent s).bitlen = 0 := rfl
@[simp] theorem resetEvent_mwords (s : State) : (resetEvent s).mwords = 0 := rfl
@[simp] theorem resetEvent_variant (s : State) : (resetEvent s).variant = 0 := rfl
@[simp] theorem resetEvent_msg (s : State) : (resetEvent s).msg = s.msg := rfl
@[simp] theorem resetEvent_hostData (s : State) : (resetEvent s).hostData = s.hostData := rfl
@[simp] theorem resetEvent_turns (s : State) : (resetEvent s).turns = s.turns := rfl
@[simp] theorem resetEvent_freeCtr (s : State) : (resetEvent s).freeCtr = s.freeCtr + 1 := rfl
@[simp] theorem resetEvent_engineId (s : State) : (resetEvent s).engineId = s.engineId := rfl

end Sys2Proof.Machine
end

