-- ==== Sys2Proof/Laws/PerInstr.lean ====
section
/-!
SUPPORT. Facts about each instruction as syntax, one lemma per constructor.

Family EncodedShape: an encoding is one byte, or five for an access with a datum; its first byte is below 8 for a
micro-operation and below 32 for a host access, with bit 4 set exactly where a datum follows.
-/

namespace Sys2Proof.Laws.EncodedShape

/-- The shape of an instruction's encoding. -/
def Statement (i : Instr) : Prop :=
  (encode i).bytes.length = (if (encode i).datum.isSome then 5 else 1) ∧
  (encode i).code.toNat < (match (encode i).format with | .phase3 => 8 | .hop5 => 32) ∧
  (encode i).code.getLsbD 4 = (encode i).datum.isSome

/-- The code of every write is below 32 and has bit 4 set. -/
theorem write_code (r : BitVec 4) :
    (Encoding.write r 0).code.toNat < 32 ∧ (Encoding.write r 0).code.getLsbD 4 = true := by
  revert r; decide

/-- What a write's encoding has. -/
theorem of_write (r : BitVec 4) (d : Word) :
    (Encoding.write r d).bytes.length = 5 ∧ (Encoding.write r d).code.toNat < 32 ∧
      (Encoding.write r d).code.getLsbD 4 = true :=
  ⟨rfl, write_code r⟩

theorem idle : Statement .idle := ⟨rfl, by decide, rfl⟩
theorem loadiv : Statement .loadiv := ⟨rfl, by decide, rfl⟩
theorem fetch : Statement .fetch := ⟨rfl, by decide, rfl⟩
theorem initv : Statement .initv := ⟨rfl, by decide, rfl⟩
theorem round : Statement .round := ⟨rfl, by decide, rfl⟩
theorem expand : Statement .expand := ⟨rfl, by decide, rfl⟩
theorem feedfwd : Statement .feedfwd := ⟨rfl, by decide, rfl⟩
theorem done : Statement .done := ⟨rfl, by decide, rfl⟩
theorem start (d : Word) : Statement (.start d) := of_write _ d
theorem ctrlNop (d : Word) : Statement (.ctrlNop d) := of_write _ d
theorem rdStatus : Statement .rdStatus := ⟨rfl, by decide, rfl⟩
theorem wrVariant (d : Word) : Statement (.wrVariant d) := of_write _ d
theorem wrBitlenLo (d : Word) : Statement (.wrBitlenLo d) := of_write _ d
theorem wrBitlenHi (d : Word) : Statement (.wrBitlenHi d) := of_write _ d
theorem wrMwordsLo (d : Word) : Statement (.wrMwordsLo d) := of_write _ d
theorem wrMwordsHi (d : Word) : Statement (.wrMwordsHi d) := of_write _ d
theorem rdVariant : Statement .rdVariant := ⟨rfl, by decide, rfl⟩
theorem rdBitlenLo : Statement .rdBitlenLo := ⟨rfl, by decide, rfl⟩
theorem rdBitlenHi : Statement .rdBitlenHi := ⟨rfl, by decide, rfl⟩
theorem rdMwordsLo : Statement .rdMwordsLo := ⟨rfl, by decide, rfl⟩
theorem rdMwordsHi : Statement .rdMwordsHi := ⟨rfl, by decide, rfl⟩
theorem rdDigest (i : BitVec 3) : Statement (.rdDigest i) := by
  refine ⟨rfl, ?_, ?_⟩ <;> (revert i; decide)
theorem rdCtrl : Statement .rdCtrl := ⟨rfl, by decide, rfl⟩
theorem rdRsvd7 : Statement .rdRsvd7 := ⟨rfl, by decide, rfl⟩
theorem wrStatus (d : Word) : Statement (.wrStatus d) := of_write _ d
theorem wrRsvd7 (d : Word) : Statement (.wrRsvd7 d) := of_write _ d
theorem wrDigest (i : BitVec 3) (d : Word) : Statement (.wrDigest i d) := of_write _ d

end Sys2Proof.Laws.EncodedShape
end

