-- ==== Sys2Proof/Laws/Platform.lean ====
section
/-!
SUPPORT. What one step of a platform does to each instance.
-/

namespace Sys2Proof.Machine

/-- Every instance of the platform has just taken a reset. -/
theorem platformReset_getElem? (neng i : Nat) (h : i < neng) :
    (platformReset neng)[i]? = some (.next (resetEvent { State.reset with engineId := i })) := by
  simp [platformReset, h]

/-- The instance that steps is resumed; every other is as before. -/
theorem platformStep_getElem? (i j : Nat) (p : List Result) :
    (platformStep i p)[j]? = if i = j then p[j]?.map resume else p[j]? := by
  simp only [platformStep, List.getElem?_modify]
  split <;> simp [*]

@[simp] theorem platformStep_length (i : Nat) (p : List Result) : (platformStep i p).length = p.length := by
  simp [platformStep]

@[simp] theorem resume_next (s : State) : resume (.next s) = step s := rfl

@[simp] theorem resume_refused (r : Refusal) : resume (.refused r) = .refused r := rfl

end Sys2Proof.Machine
end

