-- ==== Sys2Proof/Laws/Step.lean ====
section
/-!
SUPPORT. What a step, a host move and an engine turn can do, said once each.
-/

namespace Sys2Proof.Machine

/-- What the micro-operation of the engine's turn is, phase by phase. -/
theorem exec_nextMicroOp (s : State) :
    exec (nextMicroOp s) = match s.phase with
      | .idle => execIdle | .loadiv => execLoadiv | .fetch => execFetch | .initv => execInitv
      | .round => execRound | .expand => execExpand | .feedfwd => execFeedfwd | .done => execDone := by
  unfold nextMicroOp
  rw [decodePhase3_code]
  cases s.phase <;> rfl

/-- Every micro-operation and host access answers a next state. -/
theorem exec_answers (i : Instr) (s : State) : ∃ t, exec i s = .next t := by
  cases i <;> exact ⟨_, rfl⟩

/-- Every host move answers a next state. -/
theorem hostMove_answers (a : HostAccess) (s : State) : ∃ t, hostMove a s = .next t := by
  unfold hostMove
  split
  · exact exec_answers _ s
  · cases a <;> exact ⟨_, rfl⟩

/-- A host access: the kinds of effect it can have. -/
inductive HostEffect (s : State) : State → Prop where
  /-- A read: the host is given a value. -/
  | answered (x : Word) : HostEffect s (s.setHostData x)
  /-- Nothing. -/
  | ignored : HostEffect s s
  /-- An accepted START. -/
  | started (rest : s.busy = false) : HostEffect s (s.setPhase .loadiv)
  /-- A write of `VARIANT` at rest. -/
  | variant (x : BitVec 1) (rest : s.busy = false) : HostEffect s (s.setVariant x)
  /-- A write of half of `BITLEN` at rest. -/
  | bitlen (x : BitVec 64) (rest : s.busy = false) : HostEffect s (s.setBitlen x)
  /-- A write of half of `MWORDS` at rest. -/
  | mwords (x : BitVec 60) (rest : s.busy = false) : HostEffect s (s.setMwords x)

theorem writeCtrl_effect {v : Word} {s t : State} (h : writeCtrl v s = .next t) : HostEffect s t := by
  obtain ⟨-, hb, rfl⟩ | ⟨-, rfl⟩ := writeCtrl_next h
  · exact .started hb
  · exact .ignored

theorem configWrite_effect {written s t : State} (h : configWrite written s = .next t)
    (hw : s.busy = false → HostEffect s written) : HostEffect s t := by
  obtain ⟨-, rfl⟩ | ⟨hb, rfl⟩ := configWrite_next h
  · exact .ignored
  · exact hw hb

/-- Every read decodes to an access whose effect is an answer. -/
theorem decodeRead_effect {r : BitVec 4} {s t : State} (h : exec (decodeRead r) s = .next t) :
    ∃ x, t = s.setHostData x := by
  unfold decodeRead at h
  split at h <;> exact ⟨_, hostAnswer_next h⟩

/-- Every write decodes to an access with one of the effects. -/
theorem decodeWrite_effect {r : BitVec 4} {d : Word} {s t : State} (h : exec (decodeWrite r d) s = .next t) :
    HostEffect s t := by
  unfold decodeWrite at h
  split at h
  · split at h <;> exact writeCtrl_effect h
  · rw [ignoredWrite_next h]; exact .ignored
  · exact configWrite_effect h (fun hb => .variant _ hb)
  · exact configWrite_effect h (fun hb => .bitlen _ hb)
  · exact configWrite_effect h (fun hb => .bitlen _ hb)
  · exact configWrite_effect h (fun hb => .mwords _ hb)
  · exact configWrite_effect h (fun hb => .mwords _ hb)
  · rw [ignoredWrite_next h]; exact .ignored
  · rw [ignoredWrite_next h]; exact .ignored

/-- Everything a host move can do. -/
theorem hostMove_effect {a : HostAccess} {s t : State} (h : hostMove a s = .next t) : HostEffect s t := by
  unfold hostMove decodeAccess at h
  cases a with
  | read r =>
    by_cases hr : r < 16
    · simp only [hr, if_true] at h
      obtain ⟨x, rfl⟩ := decodeRead_effect h
      exact .answered x
    · simp only [hr, if_false] at h
      rw [hostAnswer_next h]; exact .answered 0
  | write r d =>
    by_cases hr : r < 16
    · simp only [hr, if_true] at h
      exact decodeWrite_effect h
    · simp only [hr, if_false] at h
      rw [ignoredWrite_next h]; exact .ignored

/-- Everything a step can do: an engine turn, a host move, a word placed at rest, or a reset. -/
theorem step_cases {s t : State} (h : step s = .next t) :
    ((nextTurn s).1 = .engine ∧ exec (nextMicroOp s) (s.setTurns (nextTurn s).2) = .next t) ∨
    (∃ a, (nextTurn s).1 = .host a ∧ HostEffect (s.setTurns (nextTurn s).2) t) ∨
    (∃ i value, (nextTurn s).1 = .place i value ∧ s.busy = false ∧
      t = (s.setTurns (nextTurn s).2).setMsg (memPlace s.msg i.toNat value)) ∨
    ((nextTurn s).1 = .reset ∧ t = resetEvent (s.setTurns (nextTurn s).2)) := by
  unfold step takeTurn at h
  cases ht : (nextTurn s).1 with
  | engine => simp only [ht] at h; exact .inl ⟨rfl, h⟩
  | host a => simp only [ht] at h; exact .inr (.inl ⟨a, rfl, hostMove_effect h⟩)
  | place i value =>
    simp only [ht] at h
    obtain ⟨hb, h'⟩ | ⟨-, h'⟩ := placeWord_cases i value (s.setTurns (nextTurn s).2)
    · rw [h'] at h
      exact .inr (.inr (.inl ⟨i, value, rfl, hb, by simpa using h.symm⟩))
    · rw [h'] at h; cases h
  | reset => simp only [ht] at h; exact .inr (.inr (.inr ⟨rfl, by simpa using h.symm⟩))

/-- With no moves to come the step is the engine's. -/
theorem step_alone {s : State} (h : s.turns = []) : step s = exec (nextMicroOp s) s := by
  obtain ⟨_, _, _, _, _, _, _, _, _, _, _, _, turns, _⟩ := s
  simp only at h
  subst h
  rfl

/-- Left alone, the machine steps by the meaning of the phase it is in. -/
theorem step_alone_phase {s : State} (h : s.turns = []) :
    step s = (match s.phase with
      | .idle => execIdle s | .loadiv => execLoadiv s | .fetch => execFetch s | .initv => execInitv s
      | .round => execRound s | .expand => execExpand s | .feedfwd => execFeedfwd s | .done => execDone s) := by
  rw [step_alone h, exec_nextMicroOp]
  cases s.phase <;> rfl

theorem step_alone_idle {s : State} (h : s.turns = []) (hp : s.phase = .idle) : step s = execIdle s := by
  rw [step_alone_phase h, hp]

theorem step_alone_loadiv {s : State} (h : s.turns = []) (hp : s.phase = .loadiv) : step s = execLoadiv s := by
  rw [step_alone_phase h, hp]

theorem step_alone_fetch {s : State} (h : s.turns = []) (hp : s.phase = .fetch) : step s = execFetch s := by
  rw [step_alone_phase h, hp]

theorem step_alone_initv {s : State} (h : s.turns = []) (hp : s.phase = .initv) : step s = execInitv s := by
  rw [step_alone_phase h, hp]

theorem step_alone_round {s : State} (h : s.turns = []) (hp : s.phase = .round) : step s = execRound s := by
  rw [step_alone_phase h, hp]

theorem step_alone_expand {s : State} (h : s.turns = []) (hp : s.phase = .expand) : step s = execExpand s := by
  rw [step_alone_phase h, hp]

theorem step_alone_feedfwd {s : State} (h : s.turns = []) (hp : s.phase = .feedfwd) : step s = execFeedfwd s := by
  rw [step_alone_phase h, hp]

theorem step_alone_done {s : State} (h : s.turns = []) (hp : s.phase = .done) : step s = execDone s := by
  rw [step_alone_phase h, hp]

theorem runSteps_succ (k : Nat) (s : State) :
    runSteps (k + 1) s = match step s with
      | .next t => runSteps k t
      | .fault r => .fault r
      | .refused r => .refused r := rfl

/-- Steps one after another: `m` steps, then `k` more. -/
theorem runSteps_add {m k : Nat} {s t : State} (h : runSteps m s = .next t) : runSteps (m + k) s = runSteps k t := by
  induction m generalizing s with
  | zero => simp only [runSteps, Host.Outcome.next.injEq] at h; rw [Nat.zero_add, h]
  | succ m ih =>
    rw [show m + 1 + k = (m + k) + 1 by omega]
    rw [runSteps_succ] at h ⊢
    cases hs : step s with
    | next u => rw [hs] at h; exact ih h
    | fault r => rw [hs] at h; cases h
    | refused r => rw [hs] at h; cases h

theorem runSteps_one {s : State} : runSteps 1 s = step s := by
  unfold runSteps
  cases h : step s <;> rfl

end Sys2Proof.Machine
end

