-- ==== Sys2Proof/Tests/Slice0.lean ====
section
/-!
SUPPORT. Tests and witnesses. Expected values come from the spec: its encodings (30_encoding R101, R102), its worked examples and
the vectors of 95_test_vectors (T<n>); witnesses show that the hypotheses of the obligation they name can be met.
-/

namespace Sys2Proof.Tests

open Sys2Proof Sys2Proof.Machine

/-! ### Well-formedness -/

/-- START needs datum bit 0 set. -/
theorem test_wf_refuses_start_without_bit0 : Instr.wf (.start 0xfffffffe) = false := by decide

/-- CTRLNOP needs datum bit 0 clear. -/
theorem test_wf_refuses_ctrlNop_with_bit0 : Instr.wf (.ctrlNop 0x00000001) = false := by decide

/-! ### Decoding: each row's word written out from 30_encoding R101 and R102 -/

theorem test_decode_phase3 :
    decodeBytes .phase3 [0b000#8] = .ok (.idle, []) ∧ decodeBytes .phase3 [0b001#8] = .ok (.loadiv, []) ∧
    decodeBytes .phase3 [0b010#8] = .ok (.fetch, []) ∧ decodeBytes .phase3 [0b011#8] = .ok (.initv, []) ∧
    decodeBytes .phase3 [0b100#8] = .ok (.round, []) ∧ decodeBytes .phase3 [0b101#8] = .ok (.expand, []) ∧
    decodeBytes .phase3 [0b110#8] = .ok (.feedfwd, []) ∧ decodeBytes .phase3 [0b111#8] = .ok (.done, []) := by decide

theorem test_decode_reads :
    decodeBytes .hop5 [0b00000#8] = .ok (.rdCtrl, []) ∧ decodeBytes .hop5 [0b00001#8] = .ok (.rdStatus, []) ∧
    decodeBytes .hop5 [0b00010#8] = .ok (.rdVariant, []) ∧ decodeBytes .hop5 [0b00011#8] = .ok (.rdBitlenLo, []) ∧
    decodeBytes .hop5 [0b00100#8] = .ok (.rdBitlenHi, []) ∧ decodeBytes .hop5 [0b00101#8] = .ok (.rdMwordsLo, []) ∧
    decodeBytes .hop5 [0b00110#8] = .ok (.rdMwordsHi, []) ∧ decodeBytes .hop5 [0b00111#8] = .ok (.rdRsvd7, []) ∧
    decodeBytes .hop5 [0b01000#8] = .ok (.rdDigest 0, []) ∧ decodeBytes .hop5 [0b01111#8] = .ok (.rdDigest 7, []) := by
  decide

theorem test_decode_writes :
    decodeBytes .hop5 [0b10000#8, 1#8, 0#8, 0#8, 0#8] = .ok (.start 1, []) ∧
    decodeBytes .hop5 [0b10000#8, 0#8, 0#8, 0#8, 0#8] = .ok (.ctrlNop 0, []) ∧
    decodeBytes .hop5 [0b10001#8, 0#8, 0#8, 0#8, 0#8] = .ok (.wrStatus 0, []) ∧
    decodeBytes .hop5 [0b10010#8, 1#8, 0#8, 0#8, 0#8] = .ok (.wrVariant 1, []) ∧
    decodeBytes .hop5 [0b10011#8, 0xc0#8, 1#8, 0#8, 0#8] = .ok (.wrBitlenLo 0x1c0, []) ∧
    decodeBytes .hop5 [0b10100#8, 1#8, 0#8, 0#8, 0#8] = .ok (.wrBitlenHi 1, []) := by decide

theorem test_decode_writes_high :
    decodeBytes .hop5 [0b10101#8, 0xe#8, 0#8, 0#8, 0#8] = .ok (.wrMwordsLo 0xe, []) ∧
    decodeBytes .hop5 [0b10110#8, 0#8, 0#8, 0#8, 0x80#8] = .ok (.wrMwordsHi 0x80000000, []) ∧
    decodeBytes .hop5 [0b10111#8, 0#8, 0#8, 0#8, 0#8] = .ok (.wrRsvd7 0, []) ∧
    decodeBytes .hop5 [0b11000#8, 0#8, 0#8, 0#8, 0#8] = .ok (.wrDigest 0 0, []) ∧
    decodeBytes .hop5 [0b11111#8, 0#8, 0#8, 0#8, 0#8] = .ok (.wrDigest 7 0, []) := by decide

/-- What is no instruction is rejected by name. -/
theorem test_decode_rejects :
    decodeBytes .phase3 [0x08#8] = .error .padBitSet ∧ decodeBytes .hop5 [0x21#8] = .error .padBitSet ∧
    decodeBytes .phase3 [] = .error .truncated ∧ decodeBytes .hop5 [0b10010#8, 1#8] = .error .truncated := by decide

/-! ### Constants: the rules' own descriptions (10_state R41 to R43) -/

/-- The first 64 primes, 2 to 311. -/
def primes : List Nat :=
  (List.range 312).filter fun n => decide (2 ≤ n) && (List.range 18).all fun d => decide (d < 2) || decide (n = d) || decide (n % d ≠ 0)

/-- `x` is the first 32 bits of the fractional part of the `e`-th root of `p`, whose integer part is `q`. -/
def isRootFraction (e p q : Nat) (x : Word) : Bool :=
  decide ((q * 2 ^ 32 + x.toNat) ^ e ≤ p * 2 ^ (32 * e)) && decide (p * 2 ^ (32 * e) < (q * 2 ^ 32 + x.toNat + 1) ^ e)

theorem test_primes_count : primes.length = 64 := by decide +kernel

theorem test_K_is_cube_roots :
    ((List.range 64).all fun t => (List.range 8).any fun q => isRootFraction 3 (primes.getD t 0) q (K t)) = true := by
  decide +kernel

theorem test_IV256_is_square_roots :
    ((List.range 8).all fun i => (List.range 8).any fun q =>
      isRootFraction 2 (primes.getD i 0) q (IV256.toList.getD i 0)) = true := by
  decide +kernel

/-- `IV224` holds the second 32 bits: with the first 32 bits `y` of the fraction, `q.y.x` is the root to 64 bits. -/
theorem test_IV224_is_square_roots :
    ((List.range 8).all fun i =>
      let p := primes.getD (i + 8) 0
      let r := Nat.sqrt (p * 2 ^ 128)
      decide (r % 2 ^ 32 = (IV224.toList.getD i 0).toNat)) = true := by
  decide +kernel

/-! ### Primitives (40_primitives, T10 to T13, T17) -/

theorem test_rotr_shr :
    rotr 7 0x12345678 = 0xf02468ac ∧ rotr 25 0x12345678 = 0x1a2b3c09 ∧ rotr 1 1 = 0x80000000 ∧
    shr 3 0x80000000 = 0x10000000 ∧ shr 10 0xffffffff = 0x003fffff := by decide

theorem test_ch_maj :
    ch 0x510e527f 0x9b05688c 0x1f83d9ab = 0x1f85c98c ∧ maj 0x6a09e667 0xbb67ae85 0x3c6ef372 = 0x3a6fe667 := by decide

theorem test_sigmas :
    bigSigma0 0x12345678 = 0x66146474 ∧ bigSigma1 0x12345678 = 0x3561abda ∧
    smallSigma0 0x12345678 = 0xe7fce6ee ∧ smallSigma1 0x12345678 = 0xa1f78649 := by decide

theorem test_wi : wi 0x18 0 0 0x61626380 = 0x61716380 ∧
    wi 0xffffffff 0xffffffff 0xffffffff 0xffffffff = 0x203ffffc := by decide

/-! ### Padding (T14 to T16, T19) -/

theorem test_padLen :
    padLen 447 = 16 ∧ padLen 448 = 32 ∧ padLen 959 = 32 ∧ padLen 960 = 48 ∧ padLen (2 ^ 64 - 1) = 576460752303423504 := by
  decide

/-- The message whose word 0 is `x`. -/
def oneWord (x : Word) : Memory := memPlace [] 0 x

theorem test_pad_abc :
    pad (oneWord 0x61626300) 1 24 0 = 0x61626380 ∧ pad (oneWord 0x61626300) 1 24 14 = 0 ∧
    pad (oneWord 0x61626300) 1 24 15 = 0x18 := by decide

theorem test_pad_boundaries :
    pad (oneWord 0x6fffffff) 1 5 0 = 0x6c000000 ∧ pad (oneWord 0xffffffff) 1 31 0 = 0xffffffff ∧
    pad (oneWord 0xdeadbeef) 1 0 0 = 0x80000000 ∧ pad (oneWord 0x61626364) 1 40 1 = 0x80000000 ∧
    pad [] 0 0x100000005 134217742 = 1 ∧ pad [] 0 0x100000005 134217743 = 5 := by decide

/-! ### Micro-operations (worked examples of R146, R165, R171 to R176, R198) -/

/-- The reset state moved to a phase. -/
def inPhase (p : Phase) : State := { State.reset with phase := p }

/-- What a result's next state shows of itself; none where it stops. -/
def after {α : Type} (r : Result) (f : State → α) : Option α :=
  match r with
  | .next t => some (f t)
  | .fault _ => none
  | .refused _ => none

theorem test_idle_done_stay :
    after (exec .idle (inPhase .idle)) State.phase = some .idle ∧ after (exec .done (inPhase .done)) State.phase = some .done := by
  decide

theorem test_loadiv_224 :
    after (exec .loadiv { inPhase .loadiv with variant := 1, rnd := 9 }) (fun t => (t.h[0], t.h[7], t.rnd, t.phase)) =
      some (0xc1059ed8, 0xbefa4fa4, 0, .fetch) := by decide

/-- T16 (b): FETCH 0,0 of "abc". -/
theorem test_fetch_abc_0 :
    after (exec .fetch { inPhase .fetch with bitlen := 24, mwords := 1, msg := oneWord 0x61626300 })
      (fun t => (t.w[0], t.rnd, t.phase)) = some (0x61626380, 1, .fetch) := by decide

theorem test_fetch_abc_15 :
    after (exec .fetch { inPhase .fetch with bitlen := 24, mwords := 1, msg := oneWord 0x61626300, rnd := 15 })
      (fun t => (t.w[15], t.rnd, t.phase)) = some (0x18, 15, .initv) := by decide

theorem test_initv :
    after (exec .initv { inPhase .initv with h := IV256, rnd := 15, grp := 3 })
      (fun t => (t.v[0], t.v[7], t.grp, t.rnd)) = some (0x6a09e667, 0x5be0cd19, 0, 0) := by decide

/-- Round 0 of SHA-256 on "abc" (43_compression R174). -/
theorem test_round_abc_0 :
    after (exec .round { inPhase .round with v := IV256, w := (Vector.replicate 16 0).set 0 0x61626380 })
      (fun t => (t.v[0], t.v[1], t.v[4], t.rnd)) = some (0x5d6aebcd, 0x6a09e667, 0xfa2a4622, 1) := by decide

/-- After round 15 of group 1 the window is advanced; after round 63 the block ends (10_state R34). -/
theorem test_round_ends_group :
    after (exec .round { inPhase .round with rnd := 15, grp := 1 }) (fun t => (t.phase, t.rnd)) = some (.expand, 15) ∧
    after (exec .round { inPhase .round with rnd := 15, grp := 3 }) (fun t => (t.phase, t.rnd)) = some (.feedfwd, 15) := by
  decide

/-- The padded block of "abc" as a window. -/
def abcWindow : Words16 := ((Vector.replicate 16 0).set 0 0x61626380).set 15 0x18

/-- EXPAND of the block of "abc" (42_schedule R165). -/
theorem test_expand_abc :
    after (exec .expand { inPhase .expand with w := abcWindow, rnd := 15 }) (fun t => (t.w[0], t.w[1], t.w[2], t.w[15])) =
      some (0x61626380, 0x000f0000, 0x7da86405, 0xd3b7973b) ∧
    after (exec .expand { inPhase .expand with w := abcWindow, rnd := 15 }) (fun t => (t.grp, t.rnd, t.phase)) =
      some (1, 0, .round) := by decide

/-- T18: the outputs use the outputs before them. -/
theorem test_nextWindow_order :
    (nextWindow (Vector.ofFn fun j => BitVec.ofNat 32 j.val)).toList.drop 2 =
      [0x6605e090, 0xb406e34a, 0x5644fecb, 0xb9e28d4e, 0xeeab10ea, 0x2929f37f, 0x005ca058, 0x41e29c67, 0x8e30ba62,
       0x8bf72f41, 0x1e44684b, 0x7d189a46, 0x0059317e, 0x311805f0] := by decide +kernel

/-- The working variables 0 and 7 after the 64 rounds of "abc" (the others left out). -/
def abcRounds : Words8 := (Vector.replicate 8 0x506e3058).set 7 0x961f4894

/-- FEEDFWD of "abc": the one block is the last (43_compression R176). -/
theorem test_feedfwd_abc :
    after (exec .feedfwd { inPhase .feedfwd with h := IV256, bitlen := 24, v := abcRounds })
      (fun t => (t.h[0], t.h[7], t.phase)) = some (0xba7816bf, 0xf20015ad, .done) := by decide

/-- `n = 448` has two blocks (T5). -/
theorem test_feedfwd_next_block :
    after (exec .feedfwd { inPhase .feedfwd with bitlen := 448, rnd := 15 }) (fun t => (t.blk, t.rnd, t.phase)) =
      some (1, 0, .fetch) := by decide

/-- T21: `compress` of zeros. -/
theorem test_compress_zero :
    compress (Vector.replicate 8 0) (Vector.replicate 16 0) =
      #v[0x7ca51614, 0x425c3ba8, 0xce54dd2f, 0xc2020ae7, 0xb6e574d1, 0x98136d0f, 0xae7e26cc, 0xbf0be7a6] := by
  decide +kernel

/-- T2: SHA-256 of "abc". -/
theorem test_digest_abc :
    digest (oneWord 0x61626300) 1 24 0 =
      [0xba7816bf, 0x8f01cfea, 0x414140de, 0x5dae2223, 0xb00361a3, 0x96177a9c, 0xb410ff61, 0xf20015ad] := by
  decide +kernel

/-- T3: SHA-224 of the empty message. -/
theorem test_digest_empty_224 :
    digest [] 0 0 1 =
      [0xd14a028c, 0x2a3a2bc9, 0x476102bb, 0x288234c4, 0x15a2b01f, 0x828ea62a, 0xc5b3e42f] := by
  decide +kernel

/-- T19: an input that is not valid is computed as the rules say. -/
theorem test_digest_short_message :
    digest (oneWord 0x61626364) 1 40 0 =
      [0x200c3463, 0x336b741d, 0xa3bef18c, 0xad38db1b, 0x1054c8ab, 0x2776e4e5, 0x6810c55b, 0x35d12aba] := by
  decide +kernel

/-! ### Host accesses (T23) -/

theorem test_start_from_idle :
    after (exec (.start 0xffffffff) (inPhase .idle)) State.phase = some .loadiv ∧
    after (exec (.ctrlNop 0xfffffffe) (inPhase .idle)) State.phase = some .idle ∧
    after (exec (.start 1) (inPhase .round)) State.phase = some .round := by decide

theorem test_writes_at_rest :
    after (exec (.wrVariant 0xffffffff) (inPhase .done)) State.variant = some 1 ∧
    after (exec (.wrBitlenLo 0x18) { inPhase .idle with bitlen := 0x100000005 }) State.bitlen = some 0x100000018 ∧
    after (exec (.wrBitlenHi 2) { inPhase .idle with bitlen := 0x100000005 }) State.bitlen = some 0x200000005 ∧
    after (exec (.wrMwordsLo 9) { inPhase .idle with mwords := 0x100000005 }) State.mwords = some 0x100000009 ∧
    after (exec (.wrMwordsHi 0xffffffff) (inPhase .idle)) State.mwords = some 0xfffffff00000000 := by decide

theorem test_writes_while_busy :
    after (exec (.wrVariant 1) (inPhase .fetch)) State.variant = some 0 ∧
    after (exec (.wrBitlenLo 8) (inPhase .loadiv)) State.bitlen = some 0 ∧
    after (exec (.wrMwordsHi 1) (inPhase .feedfwd)) State.mwords = some 0 := by decide

theorem test_reads :
    after (exec .rdStatus (inPhase .idle)) State.hostData = some (some 0) ∧
    after (exec .rdStatus (inPhase .round)) State.hostData = some (some 1) ∧
    after (exec .rdStatus (inPhase .done)) State.hostData = some (some 2) ∧
    after (exec .rdVariant { inPhase .idle with variant := 1 }) State.hostData = some (some 1) ∧
    after (exec .rdBitlenHi { inPhase .idle with bitlen := 0x100000005 }) State.hostData = some (some 1) ∧
    after (exec .rdBitlenLo { inPhase .idle with bitlen := 0x100000005 }) State.hostData = some (some 5) ∧
    after (exec .rdMwordsHi { inPhase .idle with mwords := 0xfffffff00000003 }) State.hostData = some (some 0x0fffffff) ∧
    after (exec .rdMwordsLo { inPhase .idle with mwords := 0xfffffff00000003 }) State.hostData = some (some 3) := by decide

/-- T23, DONE after T2 and T3. -/
theorem test_digest_reads :
    after (exec (.rdDigest 7) { inPhase .done with h := IV256 }) State.hostData = some (some 0x5be0cd19) ∧
    after (exec (.rdDigest 7) { inPhase .done with h := IV256, variant := 1 }) State.hostData = some (some 0) ∧
    after (exec (.rdDigest 6) { inPhase .done with h := IV256, variant := 1 }) State.hostData = some (some 0x1f83d9ab) ∧
    after (exec (.rdDigest 0) { inPhase .round with h := IV256 }) State.hostData = some (some 0) := by decide

/-- Reserved registers, and a number above 15. -/
theorem test_reserved :
    after (exec .rdCtrl { inPhase .done with h := IV256 }) State.hostData = some (some 0) ∧
    after (exec .rdRsvd7 (inPhase .idle)) State.hostData = some (some 0) ∧
    after (exec (.wrDigest 0 0x12345678) (inPhase .done)) (fun t => t.h[0]) = some 0 ∧
    after (step { State.reset with turns := [.host (.read 17)] }) State.hostData = some (some 0) := by decide

/-! ### The word in place, memory, and steps that stop -/

theorem test_table_words :
    decodeTableWord 8 5 = some .expand ∧ decodeTableWord 5 1 = some .rdStatus ∧ decodeTableWord 8 13 = some (.rdDigest 5) ∧
    decodeTableWord 8 19 = some (.wrBitlenLo 0) ∧ decodeTableWord 40 (16 + 256) = some (.start 1) ∧
    decodeTableWord 8 32 = none := by decide

theorem test_word_in_place :
    after (step (State.reset.withFetchWord 8 1)) State.phase = some .fetch ∧
    after (step (State.reset.withFetchWord 8 13)) State.hostData = some (some 0) ∧
    after (step (State.reset.withFetchWord 40 (16 + 256))) State.phase = some .loadiv := by decide

theorem test_memory :
    memRead (oneWord 0x61626300) 0 = 0x61626300 ∧ oneWord 0x61626300 = [(0, 0x61), (1, 0x62), (2, 0x63)] ∧
    memPlace (oneWord 0x61626300) 0 0 = [] := by decide

theorem test_message_change_in_run_is_refused :
    (match step { inPhase .round with turns := [.place 0 1] } with
      | .refused r => decide (r = .messageChangedDuringRun)
      | .next _ => false
      | .fault _ => false) = true := by decide

/-! ### Witnesses: the hypotheses of each obligation can be met -/

theorem witness_DecodeOfEncode : Instr.wf (.start 1) = true ∧ Instr.wf (.ctrlNop 0) = true ∧ Instr.wf .round = true := by decide

theorem witness_EncodeOfDecode :
    decodeBytes .phase3 [0b111#8, 0xff#8] = .ok (.done, [0xff#8]) ∧ decodeBytes .hop5 [0b01111#8] = .ok (.rdDigest 7, []) := by
  decide

theorem witness_NoIllegalCode : decodePhase3 7 = decodePhase3 7 := by decide

theorem witness_EngineTurnRunsThePhase :
    (State.reset.turns = [] ∧ decodeBytes .phase3 [State.reset.phase.code.setWidth 8] = .ok (.idle, [])) ∧
    ({ inPhase .done with turns := [.engine, .reset] }.turns = .engine :: [.reset] ∧
      decodeBytes .phase3 [(inPhase .done).phase.code.setWidth 8] = .ok (.done, [])) := by decide

theorem witness_HostTurnRunsTheAccess :
    (0 < 16 ∧ decodeBytes .hop5 [BitVec.ofNat 8 0] = .ok (.rdCtrl, []) ∧
      decodeBytes .hop5 (BitVec.ofNat 8 (16 + 0) :: bytesOfDatum 1) = .ok (.start 1, [])) ∧
    (15 < 16 ∧ decodeBytes .hop5 [BitVec.ofNat 8 15] = .ok (.rdDigest 7, []) ∧
      decodeBytes .hop5 (BitVec.ofNat 8 (16 + 15) :: bytesOfDatum 0) = .ok (.wrDigest 7 0, [])) := by decide

theorem witness_WordInPlaceRunsFirst :
    decodeTableWord 8 7 = some .done ∧ decodeTableWord 8 8 = some (.rdDigest 0) ∧ tableFormat 8 8 = .hop5 := by decide

theorem witness_ResetEventAsStated : { inPhase .round with turns := [.reset, .engine] }.turns = .reset :: [.engine] := by decide

theorem witness_StartAfterResetHashesEmpty :
    { inPhase .round with turns := [.reset, .host (.write 0 1)] }.turns = [.reset, .host (.write 0 1)] := by decide

theorem witness_StartIsAcceptedOnlyAtRest :
    (1 : Word).getLsbD 0 = true ∧ (0xfffffffe : Word).getLsbD 0 = false ∧
    ((inPhase .idle).phase = .idle ∨ (inPhase .idle).phase = .done) ∧
    ((inPhase .done).phase = .idle ∨ (inPhase .done).phase = .done) ∧
    ¬((inPhase .loadiv).phase = .idle ∨ (inPhase .loadiv).phase = .done) ∧
    ¬((inPhase .feedfwd).phase = .idle ∨ (inPhase .feedfwd).phase = .done) := by decide

/-- The same premises, rest and busy, are those of the three configuration registers. -/
theorem witness_ConfigurationRegisters :
    ((inPhase .done).phase = .idle ∨ (inPhase .done).phase = .done) ∧
    ¬((inPhase .round).phase = .idle ∨ (inPhase .round).phase = .done) := by decide

theorem witness_DigestRead :
    (inPhase .feedfwd).phase ≠ .done ∧
    ({ inPhase .done with variant := 1 }.phase = .done ∧ { inPhase .done with variant := 1 }.variant = 1 ∧ (7 : BitVec 3) = 7) ∧
    ((inPhase .done).phase = .done ∧ ¬((inPhase .done).variant = 1 ∧ (7 : BitVec 3) = 7)) ∧
    ({ inPhase .done with variant := 1 }.phase = .done ∧ ¬({ inPhase .done with variant := 1 }.variant = 1 ∧ (6 : BitVec 3) = 7)) := by
  decide

theorem witness_ReservedAccessesDoNothing :
    16 ≤ 16 ∧ { State.reset with turns := [.host (.read 16)] }.turns = .host (.read 16) :: [] ∧
    { State.reset with turns := [.host (.write 16 5)] }.turns = .host (.write 16 5) :: [] ∧
    (3 : Word).getLsbD 0 = true ∧ after (exec .rdStatus (inPhase .done)) State.hostData = some (some 2) ∧
    after (exec .rdVariant State.reset) State.hostData = some (some 0) ∧
    after (exec .rdMwordsHi State.reset) State.hostData = some (some 0) := by decide

theorem witness_HostReadsChangeNothing :
    { inPhase .round with turns := [.host (.read 8), .engine] }.turns = .host (.read 8) :: [.engine] := by decide

theorem witness_ConfigurationLockedWhileBusy :
    ∃ s t : State, ¬(s.phase = .idle ∨ s.phase = .done) ∧ s.turns = .host (.write 3 8) :: [] ∧ step s = .next t ∧
      ∀ rest, s.turns ≠ .reset :: rest :=
  ⟨{ inPhase .feedfwd with turns := [.host (.write 3 8)] }, _, by decide, rfl, rfl, by intro rest h; cases h⟩

theorem witness_RestingPhasesDoNothing :
    ((inPhase .done).phase = .idle ∨ (inPhase .done).phase = .done) ∧ (inPhase .done).turns = [] := by decide

theorem witness_LoadivLoadsTheInitialVector :
    State.reset.variant = 0 ∧ { State.reset with variant := 1 }.variant = 1 := by decide

theorem witness_FetchStoresThePaddedWord :
    { inPhase .fetch with rnd := 14 }.rnd.toNat < 15 ∧ { inPhase .fetch with rnd := 15 }.rnd.toNat = 15 := by decide

theorem witness_RoundComputesTheRule :
    (inPhase .round).v = #v[0, 0, 0, 0, 0, 0, 0, 0] ∧ { inPhase .round with rnd := 14 }.rnd.toNat < 15 ∧
    ({ inPhase .round with rnd := 15, grp := 2 }.rnd.toNat = 15 ∧ { inPhase .round with rnd := 15, grp := 2 }.grp.toNat < 3) ∧
    ({ inPhase .round with rnd := 15, grp := 3 }.rnd.toNat = 15 ∧ { inPhase .round with rnd := 15, grp := 3 }.grp.toNat = 3) := by
  decide

theorem witness_FeedfwdAddsAndGoesOn :
    { inPhase .feedfwd with bitlen := 448 }.blk.toNat + 1 < padLen { inPhase .feedfwd with bitlen := 448 }.bitlen.toNat / 16 ∧
    padLen (inPhase .feedfwd).bitlen.toNat / 16 ≤ (inPhase .feedfwd).blk.toNat + 1 := by decide

/-- A legal position of each phase, in a run over the empty message. -/
def legal : Phase → State
  | .expand => { inPhase .expand with rnd := 15, grp := 2 }
  | .feedfwd => { inPhase .feedfwd with rnd := 15, grp := 3 }
  | .initv => { inPhase .initv with rnd := 15 }
  | p => inPhase p

theorem legal_position (p : Phase) : legalPosition (legal p) := by
  cases p <;> simp only [legalPosition, legal, inPhase] <;> decide

/-- The micro-operation of a legal position runs. -/
theorem legal_steps (p : Phase) : ∃ t, step (legal p) = .next t := by
  cases p <;> exact ⟨_, rfl⟩

theorem witness_PositionTable (p : Phase) :
    ∃ s t : State, s.phase = p ∧ legalPosition s ∧ s.turns = [] ∧ step s = .next t := by
  obtain ⟨t, h⟩ := legal_steps p
  exact ⟨legal p, t, by cases p <;> rfl, legal_position p, by cases p <;> rfl, h⟩

/-- Two states that agree on the operands and differ elsewhere. -/
theorem witness_MicroOpsReadOnlyTheirOperands (p : Phase) :
    ∃ s t s' t' : State, s.phase = p ∧ s ≠ t ∧ s.turns = [] ∧ t.turns = [] ∧ s.phase = t.phase ∧
      step s = .next s' ∧ step t = .next t' ∧ s.variant = t.variant ∧ s.bitlen = t.bitlen ∧ s.mwords = t.mwords ∧
      s.blk = t.blk ∧ s.rnd = t.rnd ∧ s.grp = t.grp ∧ s.msg = t.msg ∧ s.h = t.h ∧ s.v = t.v ∧ s.w = t.w := by
  refine ⟨inPhase p, { inPhase p with hostData := some 1 }, ?_⟩
  cases p <;> exact ⟨_, _, rfl, by decide, rfl, rfl, rfl, rfl, rfl, rfl, rfl, rfl, rfl, rfl, rfl, rfl, rfl, rfl, rfl⟩

/-- LOADIV changes `H`, so the first clause is met. -/
theorem witness_WhoWritesTheDatapath :
    ∃ s t : State, step s = .next t ∧ (nextTurn s).1 ≠ .reset ∧ t.h ≠ s.h :=
  ⟨inPhase .loadiv, _, rfl, by decide, by decide⟩

/-- A round of `V` changes `V` and `RND`; EXPAND changes `W` and `GRP`; FEEDFWD of a first block changes `BLK`. -/
theorem witness_WhoWritesTheDatapath_others :
    (∃ s t : State, step s = .next t ∧ (nextTurn s).1 ≠ .reset ∧ t.v ≠ s.v ∧ t.rnd ≠ s.rnd) ∧
    (∃ s t : State, step s = .next t ∧ (nextTurn s).1 ≠ .reset ∧ t.grp ≠ s.grp) ∧
    (∃ s t : State, step s = .next t ∧ (nextTurn s).1 ≠ .reset ∧ t.w ≠ s.w) ∧
    (∃ s t : State, step s = .next t ∧ (nextTurn s).1 ≠ .reset ∧ t.blk ≠ s.blk) :=
  ⟨⟨inPhase .round, _, rfl, by decide, by decide, by decide⟩, ⟨inPhase .expand, _, rfl, by decide, by decide⟩,
    ⟨inPhase .fetch, _, rfl, by decide, by decide⟩, ⟨{ inPhase .feedfwd with bitlen := 448 }, _, rfl, by decide, by decide⟩⟩

theorem witness_WhoControlsTheEngine :
    (∃ s t : State, step s = .next t ∧ (nextTurn s).1 ≠ .reset ∧ (s.phase = .idle ∨ s.phase = .done) ∧ t.phase ≠ s.phase ∧
      t.phase = .loadiv ∧ s.phase ≠ .loadiv) ∧
    (∃ s t : State, step s = .next t ∧ (nextTurn s).1 ≠ .reset ∧ t.variant ≠ s.variant) ∧
    (∃ s t : State, step s = .next t ∧ (nextTurn s).1 ≠ .reset ∧ t.bitlen ≠ s.bitlen) ∧
    (∃ s t : State, step s = .next t ∧ (nextTurn s).1 ≠ .reset ∧ t.mwords ≠ s.mwords) :=
  ⟨⟨{ inPhase .done with turns := [.host (.write 0 1)] }, _, rfl, by decide, by decide, by decide, by decide, by decide⟩,
    ⟨{ inPhase .done with turns := [.host (.write 2 1)] }, _, rfl, by decide, by decide⟩,
    ⟨{ inPhase .done with turns := [.host (.write 4 1)] }, _, rfl, by decide, by decide⟩,
    ⟨{ inPhase .done with turns := [.host (.write 6 1)] }, _, rfl, by decide, by decide⟩⟩

theorem witness_OnlyPlacingChangesTheMessage :
    ∃ s t : State, step s = .next t ∧ Memory.readByte 7 t.msg ≠ Memory.readByte 7 s.msg :=
  ⟨{ inPhase .idle with turns := [.place 1 0x61626364] }, _, rfl, by decide⟩

theorem witness_PlacedWordIsRead :
    ({ inPhase .done with turns := [.place 0xfffffffffffffff 1] }.turns = .place 0xfffffffffffffff 1 :: [] ∧
      Memory.wf (inPhase .done).msg = true) ∧
    ¬((inPhase .loadiv).phase = .idle ∨ (inPhase .loadiv).phase = .done) := by decide

theorem witness_EveryStepKeepsControlInv (p : Phase) : ∃ s t : State, s.phase = p ∧ controlInv s ∧ step s = .next t := by
  obtain ⟨t, h⟩ := legal_steps p
  exact ⟨legal p, t, by cases p <;> rfl, ⟨legal_position p, by cases p <;> decide⟩, h⟩

/-- The last position of the run over the empty message, its data registers as the rules say. -/
def lastPosition : State :=
  { inPhase .feedfwd with
    rnd := 15, grp := 3, h := chainBefore [] 0 0 0 0,
    v := workAfter (chainBefore [] 0 0 0 0) (blockWords [] 0 0 0) 64 }

theorem lastPosition_runInv : runInv lastPosition :=
  ⟨⟨⟨by show 0 < nblk 0; decide, rfl, rfl⟩, rfl⟩, rfl, rfl⟩

theorem witness_EveryStepKeepsRunInv : ∃ s t : State, runInv s ∧ step s = .next t :=
  ⟨lastPosition, _, lastPosition_runInv, rfl⟩

theorem witness_EnteringDoneLeavesTheDigest :
    ∃ s t : State, runInv s ∧ step s = .next t ∧ s.phase ≠ .done ∧ t.phase = .done := by
  refine ⟨lastPosition, (lastPosition.setH (addWords lastPosition.h lastPosition.v)).setPhase .done,
    lastPosition_runInv, ?_, by decide, rfl⟩
  show Host.Outcome.next (afterBlock lastPosition _) = _
  unfold afterBlock
  rw [if_neg (by show ¬(0 + 1 < nblk 0); decide)]
  rfl

theorem witness_RotateAndShiftBits : 0 < 32 ∧ 31 < 32 := by decide

theorem witness_PaddedLayout :
    (0 < padLen 32 ∧ 0 < 32 / 32) ∧ (32 / 32 < 2 ∧ 2 < padLen 32 - 2) ∧ (14 = padLen 32 - 2 ∧ 14 < padLen 32) ∧
    (15 = padLen 32 - 1 ∧ 15 < padLen 32) ∧ (1 = 40 / 32 ∧ (1 : BitVec 60).toNat ≤ 1) ∧
    (1 = 40 / 32 ∧ 1 < (2 : BitVec 60).toNat ∧ 31 < 32) := by decide

theorem witness_PaddedBitString :
    validInput 1 24 ∧ 23 < 32 * padLen 24 ∧ 24 < 32 * padLen 24 ∧ 25 < 32 * padLen 24 ∧ 511 < 32 * padLen 24 := by
  unfold validInput; decide

/-- Two messages that agree on the first 24 bits and differ after them. -/
theorem witness_BitsBeyondTheLengthAreIgnored :
    oneWord 0x61626300 ≠ oneWord 0x61626364 ∧ validInput 1 24 ∧ validInput 2 24 ∧
    ∀ k, k < 24 → messageBit (oneWord 0x61626300) k = messageBit (oneWord 0x61626364) k := by
  unfold validInput; decide

/-- The schedule of the zero block is zero. -/
theorem witness_WindowsHoldTheSchedule :
    ∃ (B : Words16) (w : Nat → Word), (∀ j : Fin 16, w j.val = B[j]) ∧
      ∀ t, 16 ≤ t → t < 64 → w t = smallSigma1 (w (t - 2)) + w (t - 7) + smallSigma0 (w (t - 15)) + w (t - 16) :=
  ⟨Vector.replicate 16 0, fun _ => 0, by decide, fun _ _ _ => by show (0 : Word) = smallSigma1 0 + 0 + smallSigma0 0 + 0; decide⟩

/-- The rounds of a zero schedule from a zero state. -/
def zeroRounds : Nat → Words8
  | 0 => Vector.replicate 8 0
  | t + 1 => roundFn (zeroRounds t) (K t) 0

theorem witness_CompressIsSixtyFourRounds :
    ∃ (S : Words8) (B : Words16) (w : Nat → Word) (v : Nat → Words8), (∀ j : Fin 16, w j.val = B[j]) ∧
      (∀ t, 16 ≤ t → t < 64 → w t = smallSigma1 (w (t - 2)) + w (t - 7) + smallSigma0 (w (t - 15)) + w (t - 16)) ∧
      v 0 = S ∧ ∀ t, t < 64 → v (t + 1) = roundFn (v t) (K t) (w t) :=
  ⟨Vector.replicate 8 0, Vector.replicate 16 0, fun _ => 0, zeroRounds, by decide, fun _ _ _ => by show (0 : Word) = smallSigma1 0 + 0 + smallSigma0 0 + 0; decide, rfl,
    fun _ _ => rfl⟩

theorem witness_CompressInSixtyNineSteps : (inPhase .initv).phase = .initv ∧ (inPhase .initv).turns = [] := by decide

theorem witness_BlockInEightyFiveSteps :
    (inPhase .fetch).phase = .fetch ∧ (inPhase .fetch).rnd = 0 ∧ (inPhase .fetch).turns = [] := by decide

theorem witness_EveryRunEndsWithTheDigest : (inPhase .loadiv).phase = .loadiv ∧ (inPhase .loadiv).turns = [] := by decide

theorem witness_ACallReturnsTheDigest :
    ∃ (s : State) (d : Word) (i : Fin 8), (s.phase = .idle ∨ s.phase = .done) ∧ d.getLsbD 0 = true ∧
      s.turns = .host (.write 0 d) ::
        (List.replicate (1 + 85 * nblk s.bitlen) .engine ++ [.host (.read (8 + i.val))]) :=
  ⟨{ inPhase .done with
      turns := .host (.write 0 1) :: (List.replicate (1 + 85 * nblk 0) .engine ++ [.host (.read (8 + 7))]) },
    1, 7, .inr rfl, by decide, rfl⟩

/-- Two states at the start of a run that differ in `H` and in a message word past `ABI`. -/
theorem witness_RunsDependOnTheirInputAlone :
    ∃ s t : State, s.h ≠ t.h ∧ s.msg ≠ t.msg ∧ s.phase = .loadiv ∧ t.phase = .loadiv ∧ s.turns = [] ∧ t.turns = [] ∧
      s.bitlen = t.bitlen ∧ s.mwords = t.mwords ∧ s.variant = t.variant ∧
      ∀ i, i ≤ s.bitlen.toNat / 32 → i < s.mwords.toNat → memRead s.msg i = memRead t.msg i :=
  ⟨{ inPhase .loadiv with bitlen := 24, mwords := 2, msg := oneWord 0x61626300 },
    { inPhase .loadiv with bitlen := 24, mwords := 2, msg := memPlace (oneWord 0x61626300) 1 5, h := IV256 },
    by decide, by decide, rfl, rfl, rfl, rfl, rfl, rfl, rfl, by
      intro i hi _
      have h0 : i = 0 := by
        have : i ≤ 24 / 32 := hi
        omega
      subst h0
      decide⟩

theorem witness_HostAccessesDoNotDisturbARun :
    ∃ s : State, s.turns ≠ [] ∧ (∀ x ∈ s.turns, engineOrHost x = true) ∧
      ∀ k, k ≤ engineTurns s.turns → ∃ x, runSteps k s.alone = .next x ∧ x.phase ≠ .idle ∧ x.phase ≠ .done := by
  refine ⟨{ inPhase .loadiv with turns := [.host (.read 1), .engine, .host (.write 3 8)] }, by decide, by decide, ?_⟩
  intro k hk
  have hk1 : k ≤ 1 := hk
  obtain rfl | rfl : k = 0 ∨ k = 1 := by omega
  · exact ⟨_, rfl, by decide, by decide⟩
  · exact ⟨_, rfl, by decide, by decide⟩

/-- Two states that differ in `H` alone. -/
theorem witness_OnlyDigestReadsRevealData :
    ∃ s t s' : State, s.h ≠ t.h ∧ publicEq s t ∧ step s = .next s' ∧
      (s.phase = .done → readsDigest (nextTurn s).1 = false) :=
  ⟨{ inPhase .done with turns := [.host (.read 7)] }, { inPhase .done with h := IV256, turns := [.host (.read 7)] }, _,
    by decide, ⟨rfl, trivial, rfl, rfl, rfl, rfl, rfl⟩, rfl, by decide⟩

/-- In ROUND the counters count, and a step that is no reset keeps them equal. -/
theorem witness_OnlyDigestReadsRevealData_counters :
    ∃ s t s' : State, s.v ≠ t.v ∧ publicEq s t ∧ step s = .next s' ∧ (nextTurn s).1 ≠ .reset ∧ s.blk = t.blk ∧ s.grp = t.grp ∧
      s.rnd = t.rnd ∧ (s.phase = .done → readsDigest (nextTurn s).1 = false) :=
  ⟨inPhase .round, { inPhase .round with v := IV256 }, _, by decide, ⟨rfl, ⟨rfl, rfl, rfl⟩, rfl, rfl, rfl, rfl, rfl⟩, rfl,
    by decide, rfl, rfl, rfl, by decide⟩

/-- An instance whose message changes during its run, and one that runs on. -/
def oneChanged : List Result :=
  [.next { inPhase .round with turns := [.place 0 1] }, .next (inPhase .loadiv)]

/-- The refusal of instance 0 leaves instance 1 its step (60_exceptions R233). -/
theorem test_platform_refusal_is_local :
    (platformRun [0, 1, 0] oneChanged)[0]? = some (.refused .messageChangedDuringRun) ∧
    (platformRun [0, 1, 0] oneChanged)[1]? = some (runSteps 1 (inPhase .loadiv)) :=
  ⟨rfl, rfl⟩

theorem witness_InstancesDoNotInteract :
    1 < 2 ∧ oneChanged[1]? = some (.next (inPhase .loadiv)) ∧
    (platformStep 0 oneChanged)[0]? = some (.refused .messageChangedDuringRun) :=
  ⟨by decide, rfl, rfl⟩

end Sys2Proof.Tests
end

section
/-!
SUPPORT. The engine's turn, said once: what each micro-operation does to the whole state, branch by branch.
-/

namespace Sys2Proof.Machine

/-- The window after a FETCH (41_padding R146). -/
def State.fetchedWindow (s : State) : Words16 :=
  setWindowWord s.w s.rnd (s.pad (paddedIndex s.blk s.rnd))

/-- The working variables after a ROUND (43_compression R174). -/
def State.roundedWork (s : State) : Words8 :=
  roundFn s.v (K (flatRound s.grp s.rnd)) (windowWord s.w s.rnd)

/-- What the engine's turn does, a constructor per branch of the transition table of 10_state R34. -/
inductive EngineEffect (s : State) : State → Prop where
  | rested (hp : s.phase = .idle ∨ s.phase = .done) : EngineEffect s s
  | ivLoaded (hp : s.phase = .loadiv) :
    EngineEffect s { s with h := initialVector s.variant, blk := 0, rnd := 0, phase := .fetch }
  | wordFetched (hp : s.phase = .fetch) (hr : s.rnd.toNat < 15) :
    EngineEffect s { s with w := s.fetchedWindow, rnd := s.rnd + 1 }
  | blockFetched (hp : s.phase = .fetch) (hr : s.rnd = 15) :
    EngineEffect s { s with w := s.fetchedWindow, phase := .initv }
  | workLoaded (hp : s.phase = .initv) :
    EngineEffect s { s with v := s.h, grp := 0, rnd := 0, phase := .round }
  | rounded (hp : s.phase = .round) (hr : s.rnd.toNat < 15) :
    EngineEffect s { s with v := s.roundedWork, rnd := s.rnd + 1 }
  | groupRounded (hp : s.phase = .round) (hr : s.rnd = 15) (hg : s.grp.toNat < 3) :
    EngineEffect s { s with v := s.roundedWork, phase := .expand }
  | blockRounded (hp : s.phase = .round) (hr : s.rnd = 15) (hg : s.grp = 3) :
    EngineEffect s { s with v := s.roundedWork, phase := .feedfwd }
  | expanded (hp : s.phase = .expand) :
    EngineEffect s { s with w := nextWindow s.w, grp := s.grp + 1, rnd := 0, phase := .round }
  | blockAdded (hp : s.phase = .feedfwd) (hb : s.blk.toNat + 1 < nblk s.bitlen) :
    EngineEffect s { s with h := addWords s.h s.v, blk := s.blk + 1, rnd := 0, phase := .fetch }
  | runEnded (hp : s.phase = .feedfwd) (hb : ¬s.blk.toNat + 1 < nblk s.bitlen) :
    EngineEffect s { s with h := addWords s.h s.v, phase := .done }

theorem rnd_eq_last {r : BitVec 4} (h : ¬r.toNat < 15) : r = 15 := by
  apply BitVec.eq_of_toNat_eq
  have := r.isLt
  show r.toNat = 15
  omega

theorem grp_eq_last {g : BitVec 2} (h : ¬g.toNat < 3) : g = 3 := by
  apply BitVec.eq_of_toNat_eq
  have := g.isLt
  show g.toNat = 3
  omega

theorem execFetch_effect {s t : State} (hp : s.phase = .fetch) (h : execFetch s = .next t) : EngineEffect s t := by
  simp only [execFetch, Host.Outcome.next.injEq] at h
  subst h
  split
  · exact .wordFetched hp ‹_›
  · exact .blockFetched hp (rnd_eq_last ‹_›)

theorem execRound_effect {s t : State} (hp : s.phase = .round) (h : execRound s = .next t) : EngineEffect s t := by
  simp only [execRound, afterRound, Host.Outcome.next.injEq] at h
  subst h
  split
  · exact .rounded hp ‹_›
  · split
    · exact .groupRounded hp (rnd_eq_last ‹_›) ‹_›
    · exact .blockRounded hp (rnd_eq_last ‹_›) (grp_eq_last ‹_›)

theorem execFeedfwd_effect {s t : State} (hp : s.phase = .feedfwd) (h : execFeedfwd s = .next t) :
    EngineEffect s t := by
  simp only [execFeedfwd, afterBlock, Host.Outcome.next.injEq] at h
  subst h
  split
  · exact .blockAdded hp ‹_›
  · exact .runEnded hp ‹_›

theorem execExpand_effect {s t : State} (hp : s.phase = .expand) (h : execExpand s = .next t) : EngineEffect s t := by
  simp only [execExpand, State.setW, State.setGrp, State.setRnd, State.setPhase, Host.Outcome.next.injEq] at h
  subst h
  exact .expanded hp

/-- Everything the engine's turn can do. -/
theorem exec_nextMicroOp_effect {s t : State} (h : exec (nextMicroOp s) s = .next t) : EngineEffect s t := by
  rw [exec_nextMicroOp] at h
  cases hp : s.phase <;> rw [hp] at h
  case idle => cases h; exact .rested (.inl hp)
  case loadiv => cases h; exact .ivLoaded hp
  case fetch => exact execFetch_effect hp h
  case initv => cases h; exact .workLoaded hp
  case round => exact execRound_effect hp h
  case expand => exact execExpand_effect hp h
  case feedfwd => exact execFeedfwd_effect hp h
  case done => cases h; exact .rested (.inr hp)

/-- In a step the engine's turn is taken with that turn used up. -/
theorem exec_nextMicroOp_effect_setTurns {s t : State} {turns : List Turn}
    (h : exec (nextMicroOp s) (s.setTurns turns) = .next t) : EngineEffect (s.setTurns turns) t :=
  exec_nextMicroOp_effect (s := s.setTurns turns) h

/-- A step of a machine left alone is a turn of its engine. -/
theorem step_alone_effect {s t : State} (ht : s.turns = []) (h : step s = .next t) : EngineEffect s t :=
  exec_nextMicroOp_effect (step_alone ht ▸ h)

theorem step_alone_answers {s : State} (ht : s.turns = []) : ∃ t, step s = .next t :=
  step_alone ht ▸ exec_answers _ s

/-- What the engine's turn never writes: the configuration, the message and what belongs to the host. -/
structure InputKept (s t : State) : Prop where
  bitlen : t.bitlen = s.bitlen
  mwords : t.mwords = s.mwords
  variant : t.variant = s.variant
  msg : t.msg = s.msg
  hostData : t.hostData = s.hostData
  turns : t.turns = s.turns

theorem InputKept.refl (s : State) : InputKept s s := ⟨rfl, rfl, rfl, rfl, rfl, rfl⟩

theorem InputKept.trans {s t u : State} (h : InputKept s t) (h' : InputKept t u) : InputKept s u :=
  ⟨h'.bitlen.trans h.bitlen, h'.mwords.trans h.mwords, h'.variant.trans h.variant, h'.msg.trans h.msg,
    h'.hostData.trans h.hostData, h'.turns.trans h.turns⟩

theorem EngineEffect.inputKept {s t : State} (h : EngineEffect s t) : InputKept s t := by
  cases h <;> exact ⟨rfl, rfl, rfl, rfl, rfl, rfl⟩

end Sys2Proof.Machine
end

section
/-!
SUPPORT. Every step keeps the sequencer at a legal position and the memory canonical.
-/

namespace Sys2Proof.Machine

/-- The padded length in whole blocks (41_padding R142). -/
theorem padLen_eq (n : Nat) : padLen n = 16 * ((n + 64) / 512 + 1) := by
  unfold padLen; omega

theorem nblk_eq (bitlen : BitVec 64) : nblk bitlen = (bitlen.toNat + 64) / 512 + 1 := by
  unfold nblk; rw [padLen_eq]; omega

theorem nblk_pos (bitlen : BitVec 64) : 0 < nblk bitlen := by
  rw [nblk_eq]; omega

/-- The block counter never wraps. -/
theorem blk_succ_toNat {b : BitVec 56} {bitlen : BitVec 64} (h : b.toNat + 1 < nblk bitlen) :
    (b + 1).toNat = b.toNat + 1 := by
  have := bitlen.isLt
  rw [nblk_eq] at h
  rw [BitVec.toNat_add, show (1 : BitVec 56).toNat = 1 from rfl]
  omega

theorem rnd_succ_toNat {r : BitVec 4} (h : r.toNat < 15) : (r + 1).toNat = r.toNat + 1 := by
  rw [BitVec.toNat_add, show (1 : BitVec 4).toNat = 1 from rfl]
  omega

theorem grp_succ_toNat {g : BitVec 2} (h : g.toNat < 3) : (g + 1).toNat = g.toNat + 1 := by
  rw [BitVec.toNat_add, show (1 : BitVec 2).toNat = 1 from rfl]
  omega

/-- At rest and before LOADIV every position is legal, and the data registers may hold anything. -/
theorem legalPosition_of_unbegun {s : State} (h : s.phase = .loadiv ∨ s.busy = false) : legalPosition s := by
  rw [busy_eq_false] at h
  unfold legalPosition
  obtain hp | hp | hp := h <;> rw [hp] <;> trivial

theorem dataPosition_of_unbegun {s : State} (h : s.phase = .loadiv ∨ s.busy = false) : dataPosition s := by
  rw [busy_eq_false] at h
  unfold dataPosition
  obtain hp | hp | hp := h <;> rw [hp] <;> trivial

/-- What is kept by the engine's turn, holds wherever no block is begun, and does not speak of what belongs to the host, is kept
by every step: the host and the message source change the rest of the state only at rest, and START and a reset leave no
block begun. -/
theorem step_keeps {P : State → Prop} (engine : ∀ {s t}, EngineEffect s t → P s → P t)
    (unbegun : ∀ {s}, s.phase = .loadiv ∨ s.busy = false → P s)
    (hostData : ∀ {s} x, P s → P (s.setHostData x)) (turns : ∀ {s} x, P s → P (s.setTurns x))
    {s t : State} (h : step s = .next t) (hs : P s) : P t := by
  have hu : P (s.setTurns (nextTurn s).2) := turns _ hs
  obtain ⟨-, he⟩ | ⟨a, -, he⟩ | ⟨i, value, -, hb, rfl⟩ | ⟨-, rfl⟩ := step_cases h
  · exact engine (exec_nextMicroOp_effect_setTurns he) hu
  · cases he with
    | answered x => exact hostData x hu
    | ignored => exact hu
    | started => exact unbegun (.inl rfl)
    | variant x hb => exact unbegun (.inr hb)
    | bitlen x hb => exact unbegun (.inr hb)
    | mwords x hb => exact unbegun (.inr hb)
  · exact unbegun (.inr hb)
  · exact unbegun (.inr rfl)

/-- Every step keeps the memory canonical: only a placing changes it. -/
theorem step_keeps_wf {s t : State} (h : step s = .next t) (hm : Memory.wf s.msg = true) : Memory.wf t.msg = true := by
  obtain ⟨-, he⟩ | ⟨a, -, he⟩ | ⟨i, value, -, -, rfl⟩ | ⟨-, rfl⟩ := step_cases h
  · rwa [(exec_nextMicroOp_effect_setTurns he).inputKept.msg]
  · cases he <;> exact hm
  · exact wf_memPlace hm i.isLt
  · exact hm

theorem EngineEffect.keeps_legalPosition {s t : State} (h : EngineEffect s t) (hl : legalPosition s) :
    legalPosition t := by
  cases h with
  | rested => exact hl
  | runEnded => trivial
  | ivLoaded => exact nblk_pos _
  | wordFetched hp | rounded hp => simpa only [legalPosition, hp] using hl
  | blockFetched hp hr => exact ⟨by simpa only [legalPosition, hp] using hl, hr⟩
  | groupRounded hp hr hg | blockRounded hp hr hg => exact ⟨by simpa only [legalPosition, hp] using hl, hr, hg⟩
  | workLoaded hp | expanded hp =>
    simp only [legalPosition, hp] at hl
    obtain ⟨hblk, -⟩ := hl
    exact hblk
  | blockAdded hp hb => simpa only [legalPosition, blk_succ_toNat hb] using hb

theorem step_keeps_legalPosition {s t : State} (h : step s = .next t) (hl : legalPosition s) : legalPosition t :=
  step_keeps EngineEffect.keeps_legalPosition legalPosition_of_unbegun (fun _ h => h) (fun _ h => h) h hl

/-- Settles O34: a legal position is kept by the engine row by row and by everyone else trivially. -/
theorem everyStepKeepsControlInv : Obligations.EveryStepKeepsControlInv := by
  unfold Obligations.EveryStepKeepsControlInv
  intro s t ⟨hl, hm⟩ h
  exact ⟨step_keeps_legalPosition h hl, step_keeps_wf h hm⟩

/-- Settles O28: the rows of 10_state R34 are the engine's effects. -/
theorem positionTable : Obligations.PositionTable := by
  unfold Obligations.PositionTable
  intro s t _ ht h
  cases step_alone_effect ht h with
  | rested hp => obtain hp | hp := hp <;> simp only [hp]
  | ivLoaded hp => simp only [hp]
  | wordFetched hp hr => simp only [hp, hr, if_true]
  | blockFetched hp hr => simp [hp, hr]
  | workLoaded hp => simp only [hp]
  | rounded hp hr => simp only [hp, hr, if_true]
  | groupRounded hp hr hg => simp [hp, hr, hg]
  | blockRounded hp hr hg => simp [hp, hr, hg]
  | expanded hp => simp only [hp]
  | blockAdded hp hb => simp only [hp, hb, if_true]
  | runEnded hp hb => simp only [hp, hb, if_false]

end Sys2Proof.Machine
end

section
/-!
SUPPORT. The data registers of a run: every step keeps `H`, `V` and `W` what the padding, schedule and compression rules give.
-/

namespace Sys2Proof.Machine

/-- The window after one register is replaced, slot by slot. -/
theorem setWindowWord_get (w : Words16) (r : BitVec 4) (x : Word) (j : Fin 16) :
    (setWindowWord w r x)[j] = if j.val = r.toNat then x else w[j] := by
  simp only [setWindowWord, Fin.getElem_fin, Vector.getElem_set, eq_comm]

/-- FETCH adds its padded word to those fetched before. -/
theorem fetchedWindow_get {s : State} (hw : ∀ j : Fin 16, j.val < s.rnd.toNat → s.w[j] = s.pad (16 * s.blk.toNat + j.val))
    (j : Fin 16) (hj : j.val < s.rnd.toNat + 1) : s.fetchedWindow[j] = s.pad (16 * s.blk.toNat + j.val) := by
  unfold State.fetchedWindow
  rw [setWindowWord_get]
  split
  · rw [paddedIndex, ‹j.val = _›]
  · exact hw j (by omega)

theorem blockWords_get (m : Memory) (mwords : BitVec 60) (bitlen : BitVec 64) (b : Nat) (j : Fin 16) :
    (blockWords m mwords bitlen b)[j] = pad m mwords bitlen (16 * b + j.val) := by
  simp [blockWords]

/-- The sixteenth FETCH completes the block. -/
theorem fetchedWindow_eq_block {s : State} (hr : s.rnd = 15)
    (hw : ∀ j : Fin 16, j.val < s.rnd.toNat → s.w[j] = s.pad (16 * s.blk.toNat + j.val)) : s.fetchedWindow = s.block := by
  apply Vector.ext
  intro j hj
  have hlast : s.rnd.toNat = 15 := by rw [hr]; rfl
  exact (fetchedWindow_get hw ⟨j, hj⟩ (by show j < _; omega)).trans (blockWords_get _ _ _ _ ⟨j, hj⟩).symm

/-- The next window of a group's window is the window of the next group. -/
theorem nextWindow_of_windowOf {w B : Words16} {g : Nat} (h : w = windowOf B g) : nextWindow w = windowOf B (g + 1) := by
  rw [h, windowOf]

/-- Round `16*g + j` of a block uses slot `j` of the window of group `g`. -/
theorem roundFn_workAfter (S : Words8) (B : Words16) (g : Nat) (j : Fin 16) :
    roundFn (workAfter S B (16 * g + j.val)) (K (16 * g + j.val)) (windowOf B g)[j] = workAfter S B (16 * g + j.val + 1) := by
  have hdiv : (16 * g + j.val) / 16 = g := by omega
  have hmod : (16 * g + j.val) % 16 = j.val := by omega
  simp only [workAfter, hdiv, hmod, Fin.getElem_fin]

theorem slots_take_succ (j : Fin 16) : slots.take (j.val + 1) = slots.take j.val ++ [j] := by
  revert j; decide

/-- The first `n` slots of a group take the working variables `n` rounds further. -/
theorem foldl_slots_take (S : Words8) (B : Words16) (g n : Nat) (hn : n ≤ 16) :
    (slots.take n).foldl (fun v j => roundFn v (K (16 * g + j.val)) (windowOf B g)[j]) (workAfter S B (16 * g)) =
      workAfter S B (16 * g + n) := by
  induction n with
  | zero => rfl
  | succ n ih =>
    rw [slots_take_succ ⟨n, hn⟩, List.foldl_append, ih (by omega)]
    exact roundFn_workAfter S B g ⟨n, hn⟩

/-- One turn of the outer loop of `compress` does the sixteen rounds of its group. -/
theorem compressGroup_workAfter (S : Words8) (B : Words16) (g : Nat) :
    compressGroup (workAfter S B (16 * g), windowOf B g) g =
      (workAfter S B (16 * (g + 1)), if g < 3 then windowOf B (g + 1) else windowOf B g) := by
  unfold compressGroup groupRounds
  rw [nextWindow_of_windowOf rfl]
  exact congrArg (·, _) (foldl_slots_take S B g 16 (le_refl 16))

/-- `compress` is the chaining state plus the working variables after round 63. -/
theorem compress_eq_addWords_workAfter (S : Words8) (B : Words16) : compress S B = addWords S (workAfter S B 64) := by
  unfold compress
  have h0 : compressGroup (S, B) 0 = (workAfter S B (16 * 1), windowOf B 1) := compressGroup_workAfter S B 0
  rw [List.foldl_cons, h0, List.foldl_cons, compressGroup_workAfter, if_pos (by decide), List.foldl_cons,
    compressGroup_workAfter, if_pos (by decide), List.foldl_cons, compressGroup_workAfter, List.foldl_nil]

theorem flatRound_succ {grp : BitVec 2} {rnd : BitVec 4} (h : rnd.toNat < 15) :
    flatRound grp (rnd + 1) = flatRound grp rnd + 1 := by
  unfold flatRound; rw [rnd_succ_toNat h]; omega

theorem flatRound_first (grp : BitVec 2) : flatRound grp 0 = 16 * grp.toNat := rfl

/-- The round after a group's last is the first of the next group. -/
theorem flatRound_last (grp : BitVec 2) : flatRound grp 15 + 1 = 16 * (grp.toNat + 1) := by
  show 16 * grp.toNat + 15 + 1 = _
  omega

/-- ROUND takes the working variables one round further. -/
theorem roundedWork_eq_workAfter {s : State} {S : Words8} {B : Words16} (hw : s.w = windowOf B s.grp.toNat)
    (hv : s.v = workAfter S B (flatRound s.grp s.rnd)) : s.roundedWork = workAfter S B (flatRound s.grp s.rnd + 1) := by
  unfold State.roundedWork
  rw [hw, hv]
  exact roundFn_workAfter S B s.grp.toNat ⟨s.rnd.toNat, s.rnd.isLt⟩

/-- FEEDFWD gives the chaining state before the next block. -/
theorem addWords_eq_nextChain {s : State} (hh : s.h = s.chain) (hv : s.v = workAfter s.chain s.block 64) :
    addWords s.h s.v = chainBefore s.msg s.mwords s.bitlen s.variant (s.blk.toNat + 1) := by
  rw [hh, hv]
  exact (compress_eq_addWords_workAfter s.chain s.block).symm

theorem EngineEffect.keeps_dataPosition {s t : State} (h : EngineEffect s t) (hl : legalPosition s)
    (hd : dataPosition s) : dataPosition t := by
  cases h with
  | rested => exact hd
  | runEnded => trivial
  | ivLoaded => exact ⟨rfl, fun j hj => absurd hj (Nat.not_lt_zero _)⟩
  | wordFetched hp hr =>
    simp only [dataPosition, hp] at hd ⊢
    obtain ⟨hh, hw⟩ := hd
    rw [rnd_succ_toNat hr]
    exact ⟨hh, fetchedWindow_get hw⟩
  | blockFetched hp hr =>
    simp only [dataPosition, hp] at hd
    obtain ⟨hh, hw⟩ := hd
    exact ⟨hh, fetchedWindow_eq_block hr hw⟩
  | workLoaded hp =>
    simp only [dataPosition, hp] at hd
    obtain ⟨hh, hw⟩ := hd
    exact ⟨hh, hw, hh⟩
  | rounded hp hr =>
    simp only [dataPosition, hp] at hd ⊢
    obtain ⟨hh, hw, hv⟩ := hd
    exact ⟨hh, hw, (roundedWork_eq_workAfter hw hv).trans (by rw [flatRound_succ hr]; rfl)⟩
  | groupRounded hp hr hg =>
    simp only [dataPosition, hp] at hd
    obtain ⟨hh, hw, hv⟩ := hd
    exact ⟨hh, hw, (roundedWork_eq_workAfter hw hv).trans (by rw [hr, flatRound_last]; rfl)⟩
  | blockRounded hp hr hg =>
    simp only [dataPosition, hp] at hd
    obtain ⟨hh, hw, hv⟩ := hd
    exact ⟨hh, (roundedWork_eq_workAfter hw hv).trans (by rw [hr, hg]; rfl)⟩
  | expanded hp =>
    -- `chain` and `block` are opened first: the unifier would otherwise compare the states and unfold `nextWindow`
    simp only [dataPosition, legalPosition, State.chain, State.block, hp] at hd hl ⊢
    obtain ⟨hh, hw, hv⟩ := hd
    obtain ⟨-, -, hg⟩ := hl
    rw [flatRound_first, grp_succ_toNat hg]
    exact ⟨hh, nextWindow_of_windowOf hw, hv⟩
  | blockAdded hp hb =>
    simp only [dataPosition, hp] at hd
    obtain ⟨hh, hv⟩ := hd
    have hnext := addWords_eq_nextChain hh hv
    rw [← blk_succ_toNat hb] at hnext
    exact ⟨hnext, fun j hj => absurd hj (Nat.not_lt_zero _)⟩

/-- Settles O35: the engine keeps the data registers row by row, given the legal position, and the others change them and
what they depend on only where no block is begun. -/
theorem everyStepKeepsRunInv : Obligations.EveryStepKeepsRunInv := by
  unfold Obligations.EveryStepKeepsRunInv
  intro s t ⟨⟨hl, hm⟩, hd⟩ h
  have hkept : legalPosition t ∧ dataPosition t :=
    step_keeps (P := fun u => legalPosition u ∧ dataPosition u)
      (fun he ⟨hl, hd⟩ => ⟨he.keeps_legalPosition hl, he.keeps_dataPosition hl hd⟩)
      (fun hu => ⟨legalPosition_of_unbegun hu, dataPosition_of_unbegun hu⟩) (fun _ h => h) (fun _ h => h) h ⟨hl, hd⟩
  obtain ⟨hl', hd'⟩ := hkept
  exact ⟨⟨hl', step_keeps_wf h hm⟩, hd'⟩

/-- Settles O10: the reset state is at rest, where the run invariant asks for the empty memory's form alone. -/
theorem resetStateAsStated : Obligations.ResetStateAsStated := by
  unfold Obligations.ResetStateAsStated
  have hinv : runInv State.reset :=
    ⟨⟨legalPosition_of_unbegun (.inr rfl), rfl⟩, dataPosition_of_unbegun (.inr rfl)⟩
  exact ⟨rfl, rfl, rfl, rfl, rfl, hinv⟩

end Sys2Proof.Machine
end

section
/-!
SUPPORT. A run left alone ends: how many engine steps it has left, and what it leaves in `H`.
-/

namespace Sys2Proof.Machine

/-- The engine's steps from a position of a run to DONE: 85 for each block after this one, 69 for the rounds of a fetched
block, 17 for each group after this one (44_engine R200, R202). -/
def stepsLeft (s : State) : Nat :=
  match s.phase with
  | .idle | .done => 0
  | .loadiv => 85 * nblk s.bitlen + 1
  | .fetch => 85 * (nblk s.bitlen - 1 - s.blk.toNat) + 69 + (16 - s.rnd.toNat)
  | .initv => 85 * (nblk s.bitlen - 1 - s.blk.toNat) + 69
  | .round => 85 * (nblk s.bitlen - 1 - s.blk.toNat) + 1 + 17 * (3 - s.grp.toNat) + (16 - s.rnd.toNat)
  | .expand => 85 * (nblk s.bitlen - 1 - s.blk.toNat) + 1 + 17 * (3 - s.grp.toNat)
  | .feedfwd => 85 * (nblk s.bitlen - 1 - s.blk.toNat) + 1

theorem rnd_first_toNat : (0 : BitVec 4).toNat = 0 := rfl

theorem blk_first_toNat : (0 : BitVec 56).toNat = 0 := rfl

/-- Each turn of the engine is one step less, and in DONE none is left. -/
theorem EngineEffect.stepsLeft_eq {s t : State} (h : EngineEffect s t) (hl : legalPosition s) :
    stepsLeft t = stepsLeft s - 1 := by
  cases h with
  | rested hp => obtain hp | hp := hp <;> simp only [stepsLeft, hp]
  | ivLoaded hp =>
    have := nblk_pos s.bitlen
    simp only [stepsLeft, hp, rnd_first_toNat, blk_first_toNat]
    omega
  | wordFetched hp hr =>
    simp only [stepsLeft, hp, rnd_succ_toNat hr]
    omega
  | blockFetched hp hr => simp only [stepsLeft, hp, hr]; rfl
  | workLoaded hp => simp only [stepsLeft, hp]; rfl
  | rounded hp hr =>
    simp only [stepsLeft, hp, rnd_succ_toNat hr]
    omega
  | groupRounded hp hr hg => simp only [stepsLeft, hp, hr]; rfl
  | blockRounded hp hr hg => simp only [stepsLeft, hp, hr, hg]; rfl
  | expanded hp =>
    simp only [legalPosition, hp] at hl
    obtain ⟨-, -, hg⟩ := hl
    simp only [stepsLeft, hp, grp_succ_toNat hg, rnd_first_toNat]
    omega
  | blockAdded hp hb =>
    simp only [stepsLeft, hp, blk_succ_toNat hb, rnd_first_toNat]
    omega
  | runEnded hp hb =>
    simp only [stepsLeft, hp]
    omega

/-- A state of a run, from LOADIV to DONE: a legal position, the data registers as the rules say, and in DONE the final chaining
state in `H` (44_engine R201). -/
structure InRun (s : State) : Prop where
  begun : s.phase ≠ .idle
  legal : legalPosition s
  data : dataPosition s
  ended : s.phase = .done → s.h = finalChain s.msg s.mwords s.bitlen s.variant

theorem inRun_of_loadiv {s : State} (hp : s.phase = .loadiv) : InRun s where
  begun := by simp [hp]
  legal := legalPosition_of_unbegun (.inl hp)
  data := dataPosition_of_unbegun (.inl hp)
  ended := by simp [hp]

/-- The last FEEDFWD leaves the final chaining state. -/
theorem addWords_eq_finalChain {s : State} (hp : s.phase = .feedfwd) (hb : ¬s.blk.toNat + 1 < nblk s.bitlen)
    (hl : legalPosition s) (hd : dataPosition s) : addWords s.h s.v = finalChain s.msg s.mwords s.bitlen s.variant := by
  simp only [legalPosition, dataPosition, hp] at hl hd
  obtain ⟨hblk, -⟩ := hl
  obtain ⟨hh, hv⟩ := hd
  rw [addWords_eq_nextChain hh hv, finalChain, show nblk s.bitlen = s.blk.toNat + 1 by omega]

theorem EngineEffect.keeps_begun {s t : State} (h : EngineEffect s t) (hs : s.phase ≠ .idle) : t.phase ≠ .idle := by
  cases h with
  | rested | wordFetched | rounded => exact hs
  | _ => exact Phase.noConfusion

/-- DONE is stayed in or entered by the last FEEDFWD. -/
theorem EngineEffect.done_cases {s t : State} (h : EngineEffect s t) (ht : t.phase = .done) :
    t = s ∨ (s.phase = .feedfwd ∧ ¬s.blk.toNat + 1 < nblk s.bitlen ∧
      t = { s with h := addWords s.h s.v, phase := .done }) := by
  cases h with
  | rested => exact .inl rfl
  | runEnded hp hb => exact .inr ⟨hp, hb, rfl⟩
  | wordFetched hp | rounded hp => exact absurd (hp.symm.trans ht) Phase.noConfusion
  | _ => exact Phase.noConfusion ht

theorem EngineEffect.keeps_inRun {s t : State} (h : EngineEffect s t) (hs : InRun s) : InRun t where
  begun := h.keeps_begun hs.begun
  legal := h.keeps_legalPosition hs.legal
  data := h.keeps_dataPosition hs.legal hs.data
  ended := by
    intro ht
    obtain rfl | ⟨hp, hb, rfl⟩ := h.done_cases ht
    · exact hs.ended ht
    · exact addWords_eq_finalChain hp hb hs.legal hs.data

/-- The engine left alone in a run: after any number of steps it is still in the run of the same input, with that many steps
fewer left. -/
theorem runSteps_inRun (k : Nat) {s : State} (hs : InRun s) (ht : s.turns = []) :
    ∃ t, runSteps k s = .next t ∧ InRun t ∧ InputKept s t ∧ stepsLeft t = stepsLeft s - k := by
  induction k generalizing s with
  | zero => exact ⟨s, rfl, hs, .refl s, rfl⟩
  | succ k ih =>
    obtain ⟨u, hu⟩ := step_alone_answers ht
    have he := step_alone_effect ht hu
    obtain ⟨t, hrun, hin, hkept, hleft⟩ := ih (he.keeps_inRun hs) (he.inputKept.turns.trans ht)
    refine ⟨t, by rw [runSteps_succ, hu]; exact hrun, hin, he.inputKept.trans hkept, ?_⟩
    rw [hleft, he.stepsLeft_eq hs.legal]
    omega

/-- In a run no step is left only in DONE. -/
theorem InRun.phase_eq_done {s : State} (hs : InRun s) (h : stepsLeft s = 0) : s.phase = .done := by
  have hb := hs.begun
  unfold stepsLeft at h
  cases hp : s.phase <;> simp only [hp, ne_eq, not_true_eq_false] at h hb ⊢ <;> omega

/-- A run left alone ends after `1 + 85 * NBLK` steps with the final chaining state of its input in `H` (44_engine R202). -/
theorem runSteps_of_loadiv {s : State} (hp : s.phase = .loadiv) (ht : s.turns = []) :
    ∃ t, runSteps (1 + 85 * nblk s.bitlen) s = .next t ∧ t.phase = .done ∧
      t.h = finalChain s.msg s.mwords s.bitlen s.variant ∧ InputKept s t := by
  obtain ⟨t, hrun, hin, hkept, hleft⟩ := runSteps_inRun (1 + 85 * nblk s.bitlen) (inRun_of_loadiv hp) ht
  have hdone : t.phase = .done := by
    apply hin.phase_eq_done
    rw [hleft]
    simp only [stepsLeft, hp]
    omega
  refine ⟨t, hrun, hdone, ?_, hkept⟩
  rw [hin.ended hdone, hkept.msg, hkept.mwords, hkept.bitlen, hkept.variant]

/-- A padded word depends on the message through the one word it reads, at or below `ABI` and below `MWORDS`. -/
theorem pad_congr {m m' : Memory} {mwords : BitVec 60} {bitlen : BitVec 64} {i : Nat}
    (h : i ≤ bitlen.toNat / 32 → i < mwords.toNat → memRead m i = memRead m' i) :
    pad m mwords bitlen i = pad m' mwords bitlen i := by
  unfold pad
  split
  · have hi : i ≤ bitlen.toNat / 32 := le_of_lt ‹i < abi bitlen›
    unfold msgWord
    split
    · exact h hi ‹_›
    · rfl
  · split
    · subst i
      unfold boundaryWord
      split
      · rfl
      · rw [h (le_refl _) (by omega)]
    · rfl

/-- The chaining state before a block depends on the padded words before it alone. -/
theorem chainBefore_congr {m m' : Memory} {mwords mwords' : BitVec 60} {bitlen bitlen' : BitVec 64} {variant : BitVec 1}
    {b : Nat} (h : ∀ i, i < 16 * b → pad m mwords bitlen i = pad m' mwords' bitlen' i) :
    chainBefore m mwords bitlen variant b = chainBefore m' mwords' bitlen' variant b := by
  induction b with
  | zero => rfl
  | succ b ih =>
    have hblock : blockWords m mwords bitlen b = blockWords m' mwords' bitlen' b := by
      unfold blockWords
      congr 1
      funext j
      exact h _ (by omega)
    rw [chainBefore, chainBefore, hblock, ih fun i hi => h i (by omega)]

/-- With `MWORDS` 0 nothing of the message is read. -/
theorem finalChain_of_mwords_zero (m : Memory) (bitlen : BitVec 64) (variant : BitVec 1) :
    finalChain m 0 bitlen variant = finalChain [] 0 bitlen variant :=
  chainBefore_congr fun _ _ => pad_congr fun _ hi => absurd hi (Nat.not_lt_zero _)

/-- T1 of 95_test_vectors. -/
theorem finalChain_empty : finalChain [] 0 0 0 =
    #v[0xe3b0c442, 0x98fc1c14, 0x9afbf4c8, 0x996fb924, 0x27ae41e4, 0x649b934c, 0xa495991b, 0x7852b855] := by
  decide +kernel

/-- A reset and the START after it leave the run over the empty input to be begun. -/
theorem runSteps_reset_start {s : State} (ht : s.turns = [.reset, .host (.write 0 1)]) :
    ∃ u, runSteps 2 s = .next u ∧ u.phase = .loadiv ∧ u.turns = [] ∧ u.bitlen = 0 ∧ u.mwords = 0 ∧ u.variant = 0 := by
  have hreset : step s = .next (resetEvent (s.setTurns [.host (.write 0 1)])) := by
    simp only [step, nextTurn, ht, takeTurn]
  rw [runSteps_succ, hreset]
  exact ⟨_, rfl, rfl, rfl, rfl, rfl, rfl⟩

/-- Settles O11: the run after the reset and the START is that of the empty input, whose digest is T1. -/
theorem startAfterResetHashesEmpty : Obligations.StartAfterResetHashesEmpty := by
  unfold Obligations.StartAfterResetHashesEmpty
  intro s ht
  obtain ⟨u, hstart, hphase, hturns, hbitlen, hmwords, hvariant⟩ := runSteps_reset_start ht
  obtain ⟨t, hrun, hdone, hh, -⟩ := runSteps_of_loadiv hphase hturns
  rw [hbitlen, show 1 + 85 * nblk 0 = 86 from rfl] at hrun
  refine ⟨t, (runSteps_add hstart).trans hrun, hdone, ?_⟩
  rw [hh, hbitlen, hmwords, hvariant, finalChain_of_mwords_zero, finalChain_empty]

end Sys2Proof.Machine
end

section
/-!
SUPPORT. The host's registers: what an access at rest and while busy does, and the register fields as numbers.
-/

namespace Sys2Proof.Machine

theorem configWrite_rest {written s : State} (h : s.phase = .idle ∨ s.phase = .done) :
    configWrite written s = .next written := by
  rw [configWrite, busy_eq_false.2 h]; rfl

theorem configWrite_busy {written s : State} (h : ¬(s.phase = .idle ∨ s.phase = .done)) :
    configWrite written s = .next s := by
  rw [configWrite, busy_eq_true.2 h]; rfl

/-- A high part over a low part, as numbers. -/
theorem toNat_append_eq {m n : Nat} (x : BitVec m) (y : BitVec n) : (x ++ y).toNat = x.toNat * 2 ^ n + y.toNat := by
  rw [BitVec.toNat_append, ← Nat.shiftLeft_add_eq_or_of_lt y.isLt, Nat.shiftLeft_eq]

theorem variantOfDatum_eq (d : Word) : variantOfDatum d = BitVec.ofNat 1 (d.toNat % 2) := by
  apply BitVec.eq_of_toNat_eq
  simp [variantOfDatum]

theorem variantWord_eq (v : BitVec 1) : variantWord v = BitVec.ofNat 32 v.toNat := by
  apply BitVec.eq_of_toNat_eq
  simp [variantWord]

theorem bitlenLow_eq (b : BitVec 64) : bitlenLow b = BitVec.ofNat 32 (b.toNat % 2 ^ 32) := by
  apply BitVec.eq_of_toNat_eq
  simp [bitlenLow]

theorem bitlenHigh_eq (b : BitVec 64) : bitlenHigh b = BitVec.ofNat 32 (b.toNat / 2 ^ 32) := by
  apply BitVec.eq_of_toNat_eq
  simp [bitlenHigh, Nat.shiftRight_eq_div_pow]

theorem mwordsLow_eq (m : BitVec 60) : mwordsLow m = BitVec.ofNat 32 (m.toNat % 2 ^ 32) := by
  apply BitVec.eq_of_toNat_eq
  simp [mwordsLow]

theorem mwordsHigh_eq (m : BitVec 60) : mwordsHigh m = BitVec.ofNat 32 (m.toNat / 2 ^ 32) := by
  have := m.isLt
  apply BitVec.eq_of_toNat_eq
  simp [mwordsHigh, Nat.shiftRight_eq_div_pow]
  omega

theorem withBitlenLow_eq (b : BitVec 64) (d : Word) :
    withBitlenLow b d = BitVec.ofNat 64 (b.toNat / 2 ^ 32 * 2 ^ 32 + d.toNat) := by
  have := b.isLt
  have := d.isLt
  apply BitVec.eq_of_toNat_eq
  rw [withBitlenLow, toNat_append_eq, bitlenHigh_eq, BitVec.toNat_ofNat, BitVec.toNat_ofNat]
  omega

theorem withBitlenHigh_eq (b : BitVec 64) (d : Word) :
    withBitlenHigh b d = BitVec.ofNat 64 (d.toNat * 2 ^ 32 + b.toNat % 2 ^ 32) := by
  have := d.isLt
  apply BitVec.eq_of_toNat_eq
  rw [withBitlenHigh, toNat_append_eq, bitlenLow_eq, BitVec.toNat_ofNat, BitVec.toNat_ofNat]
  omega

theorem withMwordsLow_eq (m : BitVec 60) (d : Word) :
    withMwordsLow m d = BitVec.ofNat 60 (m.toNat / 2 ^ 32 * 2 ^ 32 + d.toNat) := by
  have := m.isLt
  have := d.isLt
  apply BitVec.eq_of_toNat_eq
  rw [withMwordsLow, toNat_append_eq, BitVec.extractLsb'_toNat, Nat.shiftRight_eq_div_pow, BitVec.toNat_ofNat]
  omega

theorem withMwordsHigh_eq (m : BitVec 60) (d : Word) :
    withMwordsHigh m d = BitVec.ofNat 60 (d.toNat % 2 ^ 28 * 2 ^ 32 + m.toNat % 2 ^ 32) := by
  apply BitVec.eq_of_toNat_eq
  rw [withMwordsHigh, toNat_append_eq, BitVec.extractLsb'_toNat, BitVec.extractLsb'_toNat, Nat.shiftRight_zero,
    Nat.shiftRight_zero, BitVec.toNat_ofNat]
  omega

/-- Settles O13: a locked write of datum bit 0, and its zero extension read back. -/
theorem variantRegister : Obligations.VariantRegister := by
  unfold Obligations.VariantRegister
  intro d s
  rw [← variantOfDatum_eq, ← variantWord_eq]
  exact ⟨configWrite_rest, configWrite_busy, rfl⟩

/-- Settles O14: locked writes that replace one half over the other, and the halves read back. -/
theorem bitlenRegister : Obligations.BitlenRegister := by
  unfold Obligations.BitlenRegister
  intro d s
  rw [← withBitlenLow_eq, ← withBitlenHigh_eq, ← bitlenLow_eq, ← bitlenHigh_eq]
  exact ⟨fun h => ⟨configWrite_rest h, configWrite_rest h⟩, fun h => ⟨configWrite_busy h, configWrite_busy h⟩, rfl, rfl⟩

/-- Settles O15: as `BITLEN`, with a high half of 28 bits. -/
theorem mwordsRegister : Obligations.MwordsRegister := by
  unfold Obligations.MwordsRegister
  intro d s
  rw [← withMwordsLow_eq, ← withMwordsHigh_eq, ← mwordsLow_eq, ← mwordsHigh_eq]
  exact ⟨fun h => ⟨configWrite_rest h, configWrite_rest h⟩, fun h => ⟨configWrite_busy h, configWrite_busy h⟩, rfl, rfl⟩

theorem statusWord_bit0 (p : Phase) : (statusWord p).getLsbD 0 = true ↔ p ≠ .idle ∧ p ≠ .done := by
  cases p <;> decide

theorem statusWord_bit1 (p : Phase) : (statusWord p).getLsbD 1 = true ↔ p = .done := by
  cases p <;> decide

theorem statusWord_lt (p : Phase) : (statusWord p).toNat < 2 ^ 2 := by
  cases p <;> decide

/-- Settles O16: `STATUS` is a two-bit number, so its upper bits are 0. -/
theorem statusRegister : Obligations.StatusRegister := by
  unfold Obligations.StatusRegister
  intro d s
  have hupper : ∀ k, 2 ≤ k → (statusWord s.phase).getLsbD k = false := fun k hk =>
    Nat.testBit_lt_two_pow ((statusWord_lt s.phase).trans_le (Nat.pow_le_pow_right (by decide) hk))
  exact ⟨⟨statusWord s.phase, rfl, statusWord_bit0 _, statusWord_bit1 _, hupper⟩, rfl⟩

/-- Settles O17: `digestWord` branch by branch. -/
theorem digestRead : Obligations.DigestRead := by
  unfold Obligations.DigestRead
  intro i s
  have hread : exec (.rdDigest i) s = .next { s with hostData := some (digestWord s i) } := rfl
  rw [hread]
  refine ⟨fun hp => ?_, fun hp hv hi => ?_, fun hp hvi => ?_⟩
  · rw [digestWord, if_pos hp]
  · rw [digestWord, if_neg (not_not.2 hp), if_pos ⟨hv, hi⟩]
  · rw [digestWord, if_neg (not_not.2 hp), if_neg hvi]

/-- A number below `2^n` has none of the bits of a mask whose lowest `n` bits are clear. -/
theorem and_mask_eq_zero {x mask : Word} {n : Nat} (hx : x.toNat < 2 ^ n) (hm : mask.toNat % 2 ^ n = 0) :
    x &&& mask = 0 := by
  apply BitVec.eq_of_toNat_eq
  apply Nat.eq_of_testBit_eq
  intro i
  rw [BitVec.toNat_and, Nat.testBit_and]
  show _ = Nat.testBit 0 i
  rw [Nat.zero_testBit]
  obtain hi | hi := lt_or_ge i n
  · have hbit : mask.toNat.testBit i = (mask.toNat % 2 ^ n).testBit i := by simp [hi]
    rw [hbit, hm, Nat.zero_testBit, Bool.and_false]
  · rw [Nat.testBit_lt_two_pow (hx.trans_le (Nat.pow_le_pow_right (by decide) hi)), Bool.false_and]

/-- `VARIANT` takes datum bit 0 alone. -/
theorem variantOfDatum_and_one (d : Word) : variantOfDatum (d &&& 1) = variantOfDatum d := by
  have hbit : (d &&& 1).toNat = d.toNat % 2 := by rw [BitVec.toNat_and]; exact Nat.and_one_is_mod _
  rw [variantOfDatum_eq, variantOfDatum_eq, hbit, Nat.mod_mod]

/-- `MWORDS_HI` takes datum bits 27:0 alone. -/
theorem withMwordsHigh_and_mask (m : BitVec 60) (d : Word) : withMwordsHigh m (d &&& 0x0FFFFFFF) = withMwordsHigh m d := by
  have hbits : (d &&& 0x0FFFFFFF).toNat = d.toNat % 2 ^ 28 := by
    rw [BitVec.toNat_and]; exact Nat.and_two_pow_sub_one_eq_mod _ 28
  rw [withMwordsHigh_eq, withMwordsHigh_eq, hbits, Nat.mod_mod]

/-- `CTRL` takes datum bit 0 alone. -/
theorem writeCtrl_eq_of_bit0 {d d' : Word} (h : d.getLsbD 0 = d'.getLsbD 0) (s : State) : writeCtrl d s = writeCtrl d' s := by
  rw [writeCtrl, h, writeCtrl]

theorem variantWord_lt (v : BitVec 1) : (variantWord v).toNat < 2 ^ 1 := by
  revert v; decide

theorem mwordsHigh_lt (m : BitVec 60) : (mwordsHigh m).toNat < 2 ^ 28 := by
  have := m.isLt
  rw [mwordsHigh_eq, BitVec.toNat_ofNat]
  omega

/-- A host's turn makes its access, the turn used up. -/
theorem step_of_host {s : State} {a : HostAccess} {rest : List Turn} (h : s.turns = .host a :: rest) :
    step s = hostMove a (s.setTurns rest) := by
  simp only [step, nextTurn, h, takeTurn]

theorem hostMove_read_reserved {regno : Nat} (h : 16 ≤ regno) (s : State) :
    hostMove (.read regno) s = .next (s.setHostData 0) := by
  rw [hostMove, decodeAccess, if_neg (by omega)]; rfl

theorem hostMove_write_reserved {regno : Nat} (h : 16 ≤ regno) (d : Word) (s : State) :
    hostMove (.write regno d) s = .next s := by
  rw [hostMove, decodeAccess, if_neg (by omega)]; rfl

/-- What a read gives the host when its answer is known. -/
theorem hostData_of_answer {s t : State} {x y : Word} (h : hostAnswer x s = .next t) (hy : t.hostData = some y) : y = x := by
  rw [hostAnswer_next h, setHostData_hostData] at hy
  exact (Option.some.inj hy).symm

/-- Settles O18: the accesses without effect, the numbers without a code, the datum bits not taken, and the bits that are no
part of a register's value. -/
theorem reservedAccessesDoNothing : Obligations.ReservedAccessesDoNothing := by
  unfold Obligations.ReservedAccessesDoNothing
  intro s d i
  refine ⟨⟨rfl, rfl, rfl, rfl, rfl⟩, fun regno rest hr => ⟨fun h => ?_, fun h => ?_⟩, ⟨?_, ?_, fun hd => ?_⟩,
    fun t x h hx => ?_, fun t x h hx => ?_, fun t x h hx => ?_⟩
  · rw [step_of_host h, hostMove_read_reserved hr]; rfl
  · rw [step_of_host h, hostMove_write_reserved hr]; rfl
  · simp only [exec, execWrVariant, variantOfDatum_and_one]
  · simp only [exec, execWrMwordsHi, withMwordsHigh_and_mask]
  · exact writeCtrl_eq_of_bit0 hd s
  · rw [hostData_of_answer h hx]; exact and_mask_eq_zero (statusWord_lt _) rfl
  · rw [hostData_of_answer h hx]; exact and_mask_eq_zero (variantWord_lt _) rfl
  · rw [hostData_of_answer h hx]; exact and_mask_eq_zero (mwordsHigh_lt _) rfl

end Sys2Proof.Machine
end

section
/-!
SUPPORT. Who writes the datapath, and what each micro-operation reads (10_state R24).
-/

namespace Sys2Proof.Machine

/-- A host access writes none of the datapath registers and counters. -/
theorem HostEffect.datapath_eq {s t : State} (h : HostEffect s t) :
    t.h = s.h ∧ t.v = s.v ∧ t.w = s.w ∧ t.blk = s.blk ∧ t.grp = s.grp ∧ t.rnd = s.rnd := by
  cases h <;> exact ⟨rfl, rfl, rfl, rfl, rfl, rfl⟩

/-- The write column of 10_state R24 for one turn of the engine. -/
theorem EngineEffect.writers {s t : State} (h : EngineEffect s t) :
    (t.h ≠ s.h → s.phase = .loadiv ∨ s.phase = .feedfwd) ∧
    (t.v ≠ s.v → s.phase = .initv ∨ s.phase = .round) ∧
    (t.w ≠ s.w → s.phase = .fetch ∨ s.phase = .expand) ∧
    (t.blk ≠ s.blk → s.phase = .loadiv ∨ s.phase = .feedfwd) ∧
    (t.grp ≠ s.grp → s.phase = .initv ∨ s.phase = .expand) ∧
    (t.rnd ≠ s.rnd → s.phase ≠ .idle ∧ s.phase ≠ .done) := by
  cases h with
  | rested => simp
  | ivLoaded hp | wordFetched hp | blockFetched hp | workLoaded hp | rounded hp | groupRounded hp | blockRounded hp
  | expanded hp | blockAdded hp | runEnded hp => simp [hp]

/-- Settles O30: only the engine's turn writes these registers, each in its micro-operations. -/
theorem whoWritesTheDatapath : Obligations.WhoWritesTheDatapath := by
  unfold Obligations.WhoWritesTheDatapath
  intro s t h hreset
  obtain ⟨he, hx⟩ | ⟨a, -, hx⟩ | ⟨i, value, -, -, rfl⟩ | ⟨hr, -⟩ := step_cases h
  · obtain ⟨hh, hv, hw, hblk, hgrp, hrnd⟩ := (exec_nextMicroOp_effect_setTurns hx).writers
    exact ⟨fun hc => ⟨he, hh hc⟩, fun hc => ⟨he, hv hc⟩, fun hc => ⟨he, hw hc⟩, fun hc => ⟨he, hblk hc⟩,
      fun hc => ⟨he, hgrp hc⟩, fun hc => ⟨he, hrnd hc⟩⟩
  · obtain ⟨hh, hv, hw, hblk, hgrp, hrnd⟩ := hx.datapath_eq
    exact ⟨absurd hh, absurd hv, absurd hw, absurd hblk, absurd hgrp, absurd hrnd⟩
  · exact ⟨absurd rfl, absurd rfl, absurd rfl, absurd rfl, absurd rfl, absurd rfl⟩
  · exact absurd hr hreset

theorem windowWord_setWindowWord (w : Words16) (r : BitVec 4) (x : Word) : windowWord (setWindowWord w r x) r = x := by
  simp [windowWord, setWindowWord]

theorem execLoadiv_reads {s t s' t' : State} (h : execLoadiv s = .next s') (h' : execLoadiv t = .next t')
    (hvariant : s.variant = t.variant) : s'.h = t'.h ∧ s'.blk = t'.blk ∧ s'.rnd = t'.rnd ∧ s'.phase = t'.phase := by
  cases h; cases h'
  exact ⟨congrArg initialVector hvariant, rfl, rfl, rfl⟩

theorem execInitv_reads {s t s' t' : State} (h : execInitv s = .next s') (h' : execInitv t = .next t')
    (hh : s.h = t.h) : s'.v = t'.v ∧ s'.grp = t'.grp ∧ s'.rnd = t'.rnd ∧ s'.phase = t'.phase := by
  cases h; cases h'
  exact ⟨hh, rfl, rfl, rfl⟩

/-- Of the message FETCH reads at most the one word it pads. -/
theorem execFetch_reads {s t s' t' : State} (h : execFetch s = .next s') (h' : execFetch t = .next t')
    (hphase : s.phase = t.phase) (hbitlen : s.bitlen = t.bitlen) (hmwords : s.mwords = t.mwords) (hblk : s.blk = t.blk)
    (hrnd : s.rnd = t.rnd)
    (hmsg : paddedIndex s.blk s.rnd ≤ s.bitlen.toNat / 32 → paddedIndex s.blk s.rnd < s.mwords.toNat →
      memRead s.msg (paddedIndex s.blk s.rnd) = memRead t.msg (paddedIndex s.blk s.rnd)) :
    windowWord s'.w s.rnd = windowWord t'.w s.rnd ∧ s'.rnd = t'.rnd ∧ s'.phase = t'.phase := by
  have hpad : s.pad (paddedIndex s.blk s.rnd) = t.pad (paddedIndex t.blk t.rnd) := by
    simp only [State.pad, ← hbitlen, ← hmwords, ← hblk, ← hrnd]
    exact pad_congr hmsg
  simp only [execFetch, Host.Outcome.next.injEq] at h h'
  subst h h'
  rw [hpad, hrnd]
  split <;> simp only [setW_w, setW_rnd, setW_phase, setRnd_w, setRnd_rnd, setRnd_phase, setPhase_w, setPhase_rnd,
    setPhase_phase, windowWord_setWindowWord, hrnd, hphase, and_self]

theorem execRound_reads {s t s' t' : State} (h : execRound s = .next s') (h' : execRound t = .next t')
    (hphase : s.phase = t.phase) (hv : s.v = t.v) (hw : windowWord s.w s.rnd = windowWord t.w s.rnd)
    (hgrp : s.grp = t.grp) (hrnd : s.rnd = t.rnd) : s'.v = t'.v ∧ s'.rnd = t'.rnd ∧ s'.phase = t'.phase := by
  rw [hrnd] at hw
  simp only [execRound, afterRound, Host.Outcome.next.injEq] at h h'
  subst h h'
  rw [hv, hgrp, hrnd, hw]
  split
  · exact ⟨rfl, rfl, hphase⟩
  · split <;> exact ⟨rfl, hrnd, rfl⟩

theorem execExpand_reads {s t s' t' : State} (h : execExpand s = .next s') (h' : execExpand t = .next t')
    (hw : s.w = t.w) (hgrp : s.grp = t.grp) :
    s'.w = t'.w ∧ s'.grp = t'.grp ∧ s'.rnd = t'.rnd ∧ s'.phase = t'.phase := by
  simp only [execExpand, Host.Outcome.next.injEq] at h h'
  subst h h'
  exact ⟨congrArg nextWindow hw, congrArg (· + 1) hgrp, rfl, rfl⟩

/-- FEEDFWD writes `RND` only where it goes on to the next block. -/
theorem execFeedfwd_reads {s t s' t' : State} (h : execFeedfwd s = .next s') (h' : execFeedfwd t = .next t')
    (hh : s.h = t.h) (hv : s.v = t.v) (hblk : s.blk = t.blk) (hbitlen : s.bitlen = t.bitlen) :
    s'.h = t'.h ∧ s'.blk = t'.blk ∧ s'.phase = t'.phase ∧ (s'.phase = .fetch → s'.rnd = t'.rnd) := by
  simp only [execFeedfwd, afterBlock, Host.Outcome.next.injEq] at h h'
  subst h h'
  rw [hh, hv, hblk, hbitlen]
  split
  · exact ⟨rfl, rfl, rfl, fun _ => rfl⟩
  · exact ⟨rfl, hblk, rfl, Phase.noConfusion⟩

/-- Settles O29, micro-operation by micro-operation. -/
theorem microOpsReadOnlyTheirOperands : Obligations.MicroOpsReadOnlyTheirOperands := by
  unfold Obligations.MicroOpsReadOnlyTheirOperands
  intro s t s' t' hs ht hphase h h'
  rw [step_alone_phase hs] at h
  rw [step_alone_phase ht, ← hphase] at h'
  cases hp : s.phase <;> simp only [hp] at h h' ⊢
  case idle => cases h; cases h'; exact ⟨rfl, rfl⟩
  case loadiv => exact execLoadiv_reads h h'
  case fetch => exact execFetch_reads h h' hphase
  case initv => exact execInitv_reads h h'
  case round => exact execRound_reads h h' hphase
  case expand => exact execExpand_reads h h'
  case feedfwd => exact execFeedfwd_reads h h'
  case done => cases h; cases h'; exact ⟨rfl, rfl⟩

end Sys2Proof.Machine
end

section
/-!
SUPPORT. Who changes the message: placing a word at rest, and nothing else (20_memory R68, 44_engine R206).
-/

namespace Sys2Proof.Machine

/-- The message is no register of the host: no access writes it. -/
theorem HostEffect.msg_eq {s t : State} (h : HostEffect s t) : t.msg = s.msg := by
  cases h <;> rfl

/-- Everything a step can do to the message: nothing, or a word placed at rest. A reset leaves it (log entry 9). -/
theorem step_msg_cases {s t : State} (h : step s = .next t) :
    t.msg = s.msg ∨
    (s.busy = false ∧ ∃ i value, (nextTurn s).1 = .place i value ∧ t.msg = memPlace s.msg i.toNat value) := by
  obtain ⟨-, he⟩ | ⟨a, -, he⟩ | ⟨i, value, hi, hb, rfl⟩ | ⟨-, rfl⟩ := step_cases h
  · exact .inl (exec_nextMicroOp_effect_setTurns he).inputKept.msg
  · exact .inl he.msg_eq
  · exact .inr ⟨hb, i, value, hi, rfl⟩
  · exact .inl rfl

/-- Settles O32: a step that changes the message places a word, and a placing leaves the bytes of other words. -/
theorem onlyPlacingChangesTheMessage : Obligations.OnlyPlacingChangesTheMessage := by
  unfold Obligations.OnlyPlacingChangesTheMessage
  intro s t a h hchanged
  obtain hm | ⟨hb, i, value, hi, hm⟩ := step_msg_cases h <;> rw [hm] at hchanged
  · exact absurd rfl hchanged
  · exact ⟨busy_eq_false.1 hb, i, value, hi, of_not_not fun hother => hchanged (readByte_memPlace_other hother)⟩

/-- A turn of the message source places its word, the turn used up. -/
theorem step_of_place {s : State} {i : BitVec 60} {value : Word} {rest : List Turn} (h : s.turns = .place i value :: rest) :
    step s = placeWord i value (s.setTurns rest) := by
  simp only [step, nextTurn, h, takeTurn]

theorem placeWord_rest {i : BitVec 60} {value : Word} {s : State} (h : s.phase = .idle ∨ s.phase = .done) :
    placeWord i value s = .next (s.setMsg (memPlace s.msg i.toNat value)) := by
  rw [placeWord, busy_eq_false.2 h]; rfl

theorem placeWord_busy {i : BitVec 60} {value : Word} {s : State} (h : ¬(s.phase = .idle ∨ s.phase = .done)) :
    placeWord i value s = .refused .messageChangedDuringRun := by
  rw [placeWord, busy_eq_true.2 h]; rfl

/-- Settles O33: at rest the new memory is `memPlace`, whose laws give the rest; while busy `placeWord` refuses. -/
theorem placedWordIsRead : Obligations.PlacedWordIsRead := by
  unfold Obligations.PlacedWordIsRead
  intro s i value rest h
  rw [step_of_place h]
  exact ⟨fun hrest hwf => ⟨memPlace s.msg i.toNat value, placeWord_rest hrest, wf_memPlace hwf i.isLt,
    memRead_memPlace_same hwf i.isLt, fun _ => memRead_memPlace_other⟩, fun hbusy => placeWord_busy hbusy⟩

end Sys2Proof.Machine
end

section
/-!
SUPPORT. Decoding and encoding are inverse: one relation between encodings and instructions, which the decoder of bytes and the
encoder both compute (30_encoding R100 to R104).
-/

namespace Sys2Proof

/-- Which instruction an encoding stands for: the tables of 30_encoding R101 and R102, by code. -/
inductive Encoding.Means : Encoding → Instr → Prop where
  | phase3 (c : BitVec 3) : Encoding.Means (.phase3 c) (decodePhase3 c)
  | read (r : BitVec 4) : Encoding.Means (.read r) (decodeRead r)
  | write (r : BitVec 4) (d : Word) : Encoding.Means (.write r d) (decodeWrite r d)

/-! ### The tables of 30_encoding R101 and R102, row by row -/

/-- The register numbers of 10_state R44: seven registers, a reserved number, and the eight digest words. -/
theorem regno_cases (r : BitVec 4) :
    r = 0 ∨ r = 1 ∨ r = 2 ∨ r = 3 ∨ r = 4 ∨ r = 5 ∨ r = 6 ∨ r = 7 ∨ ∃ i : BitVec 3, r = 1#1 ++ i := by
  revert r; decide

theorem decodeRead_digest (i : BitVec 3) : decodeRead (1#1 ++ i) = .rdDigest i := by
  revert i; decide

theorem decodeWrite_digest (i : BitVec 3) (d : Word) : decodeWrite (1#1 ++ i) d = .wrDigest i d := by
  have hregno : (1#1 ++ i : BitVec 4).toNat = i.toNat + 8 ∧ (1#1 ++ i : BitVec 4).extractLsb' 0 3 = i := by
    revert i; decide
  obtain ⟨hnumber, hfield⟩ := hregno
  rw [decodeWrite, hnumber, hfield]; rfl

theorem decodeWrite_ctrl_of_set {d : Word} (h : d.getLsbD 0 = true) : decodeWrite 0 d = .start d :=
  if_pos h

theorem decodeWrite_ctrl_of_clear {d : Word} (h : d.getLsbD 0 = false) : decodeWrite 0 d = .ctrlNop d :=
  if_neg (Bool.eq_false_iff.1 h)

theorem wf_and_encode_decodePhase3 (c : BitVec 3) : (decodePhase3 c).wf = true ∧ encode (decodePhase3 c) = .phase3 c := by
  revert c; decide

theorem wf_and_encode_decodeRead (r : BitVec 4) : (decodeRead r).wf = true ∧ encode (decodeRead r) = .read r := by
  revert r; decide

/-- Datum bit 0 of a write of `CTRL` is the one side condition there is. -/
theorem wf_and_encode_decodeWrite (r : BitVec 4) (d : Word) :
    (decodeWrite r d).wf = true ∧ encode (decodeWrite r d) = .write r d := by
  obtain rfl | rfl | rfl | rfl | rfl | rfl | rfl | rfl | ⟨i, rfl⟩ := regno_cases r
  · cases h : d.getLsbD 0 with
    | true => rw [decodeWrite_ctrl_of_set h]; exact ⟨h, rfl⟩
    | false => rw [decodeWrite_ctrl_of_clear h]; exact ⟨congrArg not h, rfl⟩
  on_goal 8 => rw [decodeWrite_digest]
  all_goals exact ⟨rfl, rfl⟩

/-- The encoding of a well-formed instruction means it. -/
theorem means_encode {i : Instr} (h : i.wf = true) : (encode i).Means i := by
  cases i with
  | idle => exact .phase3 0
  | loadiv => exact .phase3 1
  | fetch => exact .phase3 2
  | initv => exact .phase3 3
  | round => exact .phase3 4
  | expand => exact .phase3 5
  | feedfwd => exact .phase3 6
  | done => exact .phase3 7
  | rdCtrl => exact .read 0
  | rdStatus => exact .read 1
  | rdVariant => exact .read 2
  | rdBitlenLo => exact .read 3
  | rdBitlenHi => exact .read 4
  | rdMwordsLo => exact .read 5
  | rdMwordsHi => exact .read 6
  | rdRsvd7 => exact .read 7
  | rdDigest i => have hm := Encoding.Means.read (1#1 ++ i); rwa [decodeRead_digest] at hm
  | start d => have hm := Encoding.Means.write 0 d; rwa [decodeWrite_ctrl_of_set h] at hm
  | ctrlNop d => have hm := Encoding.Means.write 0 d; rwa [decodeWrite_ctrl_of_clear (Bool.not_eq_true' _ ▸ h)] at hm
  | wrStatus d => exact .write 1 d
  | wrVariant d => exact .write 2 d
  | wrBitlenLo d => exact .write 3 d
  | wrBitlenHi d => exact .write 4 d
  | wrMwordsLo d => exact .write 5 d
  | wrMwordsHi d => exact .write 6 d
  | wrRsvd7 d => exact .write 7 d
  | wrDigest i d => have hm := Encoding.Means.write (1#1 ++ i) d; rwa [decodeWrite_digest] at hm

/-- What an encoding means is a function of it, with `encode` its inverse on the well-formed instructions. -/
theorem Encoding.means_iff {e : Encoding} {i : Instr} : e.Means i ↔ i.wf = true ∧ encode i = e := by
  constructor
  · rintro (c | r | ⟨r, d⟩)
    · exact wf_and_encode_decodePhase3 c
    · exact wf_and_encode_decodeRead r
    · exact wf_and_encode_decodeWrite r d
  · rintro ⟨hwf, rfl⟩
    exact means_encode hwf

/-! ### What the decoder reads off the first byte -/

theorem decodeBytes_phase3 (c : BitVec 3) (rest : List Byte) :
    decodeBytes .phase3 (c.setWidth 8 :: rest) = .ok (decodePhase3 c, rest) := by
  have hcode : (c.setWidth 8).toNat < 8 ∧ (c.setWidth 8).extractLsb' 0 3 = c := by revert c; decide
  obtain ⟨hlt, hfield⟩ := hcode
  rw [decodeBytes, if_pos hlt, hfield]

theorem decodeBytes_read (r : BitVec 4) (rest : List Byte) :
    decodeBytes .hop5 ((0#1 ++ r : BitVec 5).setWidth 8 :: rest) = .ok (decodeRead r, rest) := by
  have hcode : ((0#1 ++ r : BitVec 5).setWidth 8).toNat < 32 ∧ ((0#1 ++ r : BitVec 5).setWidth 8).getLsbD 4 = false ∧
      ((0#1 ++ r : BitVec 5).setWidth 8).extractLsb' 0 4 = r := by revert r; decide
  obtain ⟨hlt, hdir, hfield⟩ := hcode
  rw [decodeBytes, if_pos hlt, hdir, hfield]; rfl

theorem decodeBytes_write (r : BitVec 4) (rest : List Byte) :
    decodeBytes .hop5 ((1#1 ++ r : BitVec 5).setWidth 8 :: rest) = decodeDatum r rest := by
  have hcode : ((1#1 ++ r : BitVec 5).setWidth 8).toNat < 32 ∧ ((1#1 ++ r : BitVec 5).setWidth 8).getLsbD 4 = true ∧
      ((1#1 ++ r : BitVec 5).setWidth 8).extractLsb' 0 4 = r := by revert r; decide
  obtain ⟨hlt, hdir, hfield⟩ := hcode
  rw [decodeBytes, if_pos hlt, hdir, hfield]; rfl

/-- The bytes of an encoding decode to the instruction it means, whatever follows. -/
theorem Encoding.Means.decodeBytes_eq {e : Encoding} {i : Instr} (h : e.Means i) (rest : List Byte) :
    decodeBytes e.format (e.bytes ++ rest) = .ok (i, rest) := by
  cases h with
  | phase3 c => exact decodeBytes_phase3 c rest
  | read r => exact decodeBytes_read r rest
  | write r d => exact (decodeBytes_write r _).trans (decodeDatum_bytesOfDatum r d rest)

/-! ### What the decoder accepts -/

/-- A byte with no bit set from `n` up is a field of `n` bits. -/
theorem byte_eq_setWidth {n : Nat} {b : Byte} (h : b.toNat < 2 ^ n) : ∃ c : BitVec n, b = c.setWidth 8 :=
  ⟨b.setWidth n, BitVec.eq_of_toNat_eq (by
    rw [BitVec.toNat_setWidth, BitVec.toNat_setWidth, Nat.mod_eq_of_lt h, Nat.mod_eq_of_lt b.isLt])⟩

/-- A `HOP` code is a direction and a register number (30_encoding R102). -/
theorem hop_cases (hop : BitVec 5) : (∃ r : BitVec 4, hop = 0#1 ++ r) ∨ ∃ r : BitVec 4, hop = 1#1 ++ r := by
  revert hop; decide

theorem decodeBytes_phase3_ok {bs rest : List Byte} {i : Instr} (h : decodeBytes .phase3 bs = .ok (i, rest)) :
    ∃ c : BitVec 3, bs = c.setWidth 8 :: rest ∧ i = decodePhase3 c := by
  cases bs with
  | nil => cases h
  | cons b tl =>
    by_cases hb : b.toNat < 8
    · obtain ⟨c, rfl⟩ := byte_eq_setWidth (n := 3) hb
      rw [decodeBytes_phase3] at h
      cases h
      exact ⟨c, rfl, rfl⟩
    · rw [decodeBytes, if_neg hb] at h
      cases h

theorem decodeBytes_hop5_ok {bs rest : List Byte} {i : Instr} (h : decodeBytes .hop5 bs = .ok (i, rest)) :
    (∃ r, bs = (Encoding.read r).bytes ++ rest ∧ i = decodeRead r) ∨
    (∃ r d, bs = (Encoding.write r d).bytes ++ rest ∧ i = decodeWrite r d) := by
  cases bs with
  | nil => cases h
  | cons b tl =>
    by_cases hb : b.toNat < 32
    · obtain ⟨hop, rfl⟩ := byte_eq_setWidth (n := 5) hb
      obtain ⟨r, rfl⟩ | ⟨r, rfl⟩ := hop_cases hop
      · rw [decodeBytes_read] at h
        cases h
        exact .inl ⟨r, rfl, rfl⟩
      · rw [decodeBytes_write] at h
        obtain ⟨d, rfl, rfl⟩ := decodeDatum_ok h
        exact .inr ⟨r, d, rfl, rfl⟩
    · rw [decodeBytes, if_neg hb] at h
      cases h

/-- Bytes that decode are those of an encoding that means the instruction. -/
theorem means_of_decodeBytes {f : Format} {bs rest : List Byte} {i : Instr} (h : decodeBytes f bs = .ok (i, rest)) :
    ∃ e : Encoding, e.Means i ∧ e.format = f ∧ bs = e.bytes ++ rest := by
  cases f with
  | phase3 =>
    obtain ⟨c, rfl, rfl⟩ := decodeBytes_phase3_ok h
    exact ⟨_, .phase3 c, rfl, rfl⟩
  | hop5 =>
    obtain ⟨r, rfl, rfl⟩ | ⟨r, d, rfl, rfl⟩ := decodeBytes_hop5_ok h
    · exact ⟨_, .read r, rfl, rfl⟩
    · exact ⟨_, .write r d, rfl, rfl⟩

/-! ### The statements about the encoding -/

/-- Settles O2: the encoding of a well-formed instruction means it, and its bytes decode to what it means. -/
theorem decodeOfEncode : Obligations.DecodeOfEncode := by
  unfold Obligations.DecodeOfEncode
  intro i rest hwf
  exact (means_encode hwf).decodeBytes_eq rest

/-- Settles O3: accepted bytes are those of an encoding that means the instruction, and that is the instruction's own. -/
theorem encodeOfDecode : Obligations.EncodeOfDecode := by
  unfold Obligations.EncodeOfDecode
  intro f bs i rest h
  obtain ⟨e, hmeans, hformat, hbytes⟩ := means_of_decodeBytes h
  obtain ⟨hwf, rfl⟩ := Encoding.means_iff.1 hmeans
  exact ⟨hwf, hformat, hbytes⟩

/-- The codes and the values of `PHASE` correspond one to one (10_state R31). -/
theorem phaseCode_ofCode (c : BitVec 3) : (Phase.ofCode c).code = c := by
  revert c; decide

theorem phaseOfCode_code (p : Phase) : Phase.ofCode p.code = p := by
  cases p <;> rfl

theorem encodingPhase3_injective {c c' : BitVec 3} (h : Encoding.phase3 c = Encoding.phase3 c') : c = c' := by
  revert c c'; decide

/-- Distinct codes name distinct micro-operations, as each is encoded by its own code. -/
theorem decodePhase3_injective {c c' : BitVec 3} (h : decodePhase3 c = decodePhase3 c') : c = c' :=
  encodingPhase3_injective ((wf_and_encode_decodePhase3 c).2.symm.trans (h ▸ (wf_and_encode_decodePhase3 c').2))

/-- Every `HOP` code with a datum after it decodes: a read leaves the datum's bytes, a write takes them. -/
theorem decodeBytes_hop5_answers (hop : BitVec 5) (d0 d1 d2 d3 : Byte) (rest : List Byte) :
    ∃ i rest', decodeBytes .hop5 (hop.setWidth 8 :: d0 :: d1 :: d2 :: d3 :: rest) = .ok (i, rest') := by
  obtain ⟨r, rfl⟩ | ⟨r, rfl⟩ := hop_cases hop
  · exact ⟨_, _, decodeBytes_read r _⟩
  · exact ⟨_, _, decodeBytes_write r _⟩

/-- Settles O4: the decoder has an answer for every code, and by O3 what it answers is well-formed. -/
theorem noIllegalCode : Obligations.NoIllegalCode := by
  unfold Obligations.NoIllegalCode
  refine ⟨fun c rest => ⟨_, decodeBytes_phase3 c rest⟩, fun _ _ => decodePhase3_injective,
    fun c p => ⟨phaseCode_ofCode c, phaseOfCode_code p⟩, fun hop d0 d1 d2 d3 rest => ?_⟩
  obtain ⟨i, rest', h⟩ := decodeBytes_hop5_answers hop d0 d1 d2 d3 rest
  obtain ⟨hwf, -⟩ := encodeOfDecode _ _ _ _ h
  exact ⟨i, rest', h, hwf⟩

/-- Settles O1: each word is the encoding of the instruction it stands for. -/
theorem specWordsDecode : Obligations.SpecWordsDecode := by
  unfold Obligations.SpecWordsDecode
  exact ⟨decodeOfEncode .loadiv [] rfl, decodeOfEncode .expand [] rfl, decodeOfEncode .rdStatus [] rfl,
    decodeOfEncode (.rdDigest 5) [] rfl, decodeOfEncode (.wrBitlenLo 0x18) [] rfl, decodeOfEncode (.start 1) [] rfl,
    decodeOfEncode (.ctrlNop 0xfffffffe) [] rfl, decodeOfEncode (.wrDigest 7 0x12345678) [] rfl⟩

end Sys2Proof
end

section
/-!
SUPPORT. A step of the engine or of the host is `exec` of the instruction that the bytes of its code decode to.
-/

namespace Sys2Proof.Machine

/-- The engine's turn, or a step with no turn left, runs the micro-operation `PHASE` names, the turn used up. -/
theorem step_of_engine {s : State} {rest : List Turn} (h : (s.turns = [] ∧ rest = []) ∨ s.turns = .engine :: rest) :
    step s = exec (nextMicroOp s) (s.setTurns rest) := by
  have hturn : nextTurn s = (.engine, rest) := by
    obtain ⟨hnone, rfl⟩ | hengine := h
    · rw [nextTurn, hnone]
    · rw [nextTurn, hengine]
  rw [step, hturn]; rfl

/-- Settles O5: the byte of the phase's code decodes to the micro-operation the engine runs. -/
theorem engineTurnRunsThePhase : Obligations.EngineTurnRunsThePhase := by
  unfold Obligations.EngineTurnRunsThePhase
  intro s i rest hturn hdecode
  rw [decodeBytes_phase3] at hdecode
  cases hdecode
  exact step_of_engine hturn

theorem hostMove_read {regno : Nat} (h : regno < 16) : hostMove (.read regno) = exec (decodeRead (BitVec.ofNat 4 regno)) := by
  funext s
  rw [hostMove, decodeAccess, if_pos h]

theorem hostMove_write {regno : Nat} (h : regno < 16) (d : Word) :
    hostMove (.write regno d) = exec (decodeWrite (BitVec.ofNat 4 regno) d) := by
  funext s
  rw [hostMove, decodeAccess, if_pos h]

/-- A register number with its direction bit above it, as a byte. -/
theorem hopByte_eq {regno : Nat} (h : regno < 16) :
    BitVec.ofNat 8 regno = (0#1 ++ BitVec.ofNat 4 regno : BitVec 5).setWidth 8 ∧
      BitVec.ofNat 8 (16 + regno) = (1#1 ++ BitVec.ofNat 4 regno : BitVec 5).setWidth 8 := by
  revert regno; decide

/-- Settles O6: the byte of a move's code, with a write's datum after it, decodes to the access the move is. -/
theorem hostTurnRunsTheAccess : Obligations.HostTurnRunsTheAccess := by
  unfold Obligations.HostTurnRunsTheAccess
  intro s i regno rest hr
  obtain ⟨hread, hwrite⟩ := hopByte_eq hr
  refine ⟨fun hturn hdecode => ?_, fun d hturn hdecode => ?_⟩
  · rw [hread, decodeBytes_read] at hdecode
    cases hdecode
    rw [step_of_host hturn, hostMove_read hr]; rfl
  · rw [hwrite, decodeBytes_write, ← List.append_nil (bytesOfDatum d), decodeDatum_bytesOfDatum] at hdecode
    cases hdecode
    rw [step_of_host hturn, hostMove_write hr]; rfl

end Sys2Proof.Machine
end

section
/-!
SUPPORT. The bitwise primitives bit by bit, and their linearity over `xor` (40_primitives R123 to R131).
-/

namespace Sys2Proof.Machine

/-! ### Rotation and shift -/

/-- Amount 0 is no exception: the bit-vector rotation then shifts every bit of its second half out. -/
theorem rotr_eq_rotateRight {k : Nat} (hk : k < 32) (x : Word) : rotr k x = x.rotateRight k := by
  rw [rotr, BitVec.rotateRight_def, Nat.mod_eq_of_lt hk]
  split
  · subst k; simp
  · rfl

theorem getLsbD_rotr {k i : Nat} (hk : k < 32) (hi : i < 32) (x : Word) :
    (rotr k x).getLsbD i = x.getLsbD ((i + k) % 32) := by
  rw [rotr_eq_rotateRight hk, BitVec.getLsbD_rotateRight_of_lt hk]
  by_cases hlow : i < 32 - k
  · have hsource : (i + k) % 32 = k + i := by omega
    simp [hlow, hsource]
  · have hsource : (i + k) % 32 = i - (32 - k) := by omega
    simp [hlow, hi, hsource]

theorem getLsbD_shr (k i : Nat) (x : Word) : (shr k x).getLsbD i = (decide (i + k < 32) && x.getLsbD (i + k)) := by
  rw [shr, BitVec.getLsbD_ushiftRight, Nat.add_comm k i]
  by_cases hin : i + k < 32
  · simp [hin]
  · simp [hin, BitVec.getLsbD_of_ge x (i + k) (by omega)]

/-- Settles O37. -/
theorem rotateAndShiftBits : Obligations.RotateAndShiftBits := by
  unfold Obligations.RotateAndShiftBits
  intro k x i hk hi
  exact ⟨getLsbD_rotr hk hi x, getLsbD_shr k i x⟩

/-! ### Choice and majority -/

theorem getLsbD_ch {i : Nat} (hi : i < 32) (x y z : Word) :
    (ch x y z).getLsbD i = if x.getLsbD i then y.getLsbD i else z.getLsbD i := by
  simp only [ch, BitVec.getLsbD_xor, BitVec.getLsbD_and, BitVec.getLsbD_not, hi]
  cases x.getLsbD i <;> simp

/-- The two parts of a choice have no bit in common, so `or` may join them. -/
theorem ch_eq_or (x y z : Word) : ch x y z = (x &&& y) ||| (~~~x &&& z) := by
  apply BitVec.eq_of_getLsbD_eq
  intro i hi
  simp only [getLsbD_ch hi, BitVec.getLsbD_or, BitVec.getLsbD_and, BitVec.getLsbD_not, hi]
  cases x.getLsbD i <;> simp

theorem getLsbD_maj (i : Nat) (x y z : Word) :
    (maj x y z).getLsbD i = true ↔ 2 ≤ (x.getLsbD i).toNat + (y.getLsbD i).toNat + (z.getLsbD i).toNat := by
  simp only [maj, BitVec.getLsbD_xor, BitVec.getLsbD_and]
  generalize x.getLsbD i = a, y.getLsbD i = b, z.getLsbD i = c
  revert a b c; decide

theorem maj_swap_first_two (x y z : Word) : maj x y z = maj y x z := by
  unfold maj; ac_rfl

theorem maj_swap_last_two (x y z : Word) : maj x y z = maj x z y := by
  unfold maj; ac_rfl

/-- Settles O38. -/
theorem choiceAndMajorityBits : Obligations.ChoiceAndMajorityBits := by
  unfold Obligations.ChoiceAndMajorityBits
  intro x y z
  exact ⟨ch_eq_or x y z, fun i hi => getLsbD_ch hi x y z, fun i _ => getLsbD_maj i x y z,
    maj_swap_first_two x y z, maj_swap_last_two x y z⟩

/-! ### The sigma functions -/

/-- A rotation only moves bits, so it distributes over `xor`. -/
theorem rotr_xor {k : Nat} (hk : k < 32) (x y : Word) : rotr k (x ^^^ y) = rotr k x ^^^ rotr k y := by
  apply BitVec.eq_of_getLsbD_eq
  intro i hi
  simp only [BitVec.getLsbD_xor, getLsbD_rotr hk hi]

theorem shr_xor (k : Nat) (x y : Word) : shr k (x ^^^ y) = shr k x ^^^ shr k y :=
  BitVec.ushiftRight_xor_distrib x y k

theorem xorOfRotations_xor {r1 r2 r3 : Nat} (h1 : r1 < 32) (h2 : r2 < 32) (h3 : r3 < 32) (x y : Word) :
    xorOfRotations r1 r2 r3 (x ^^^ y) = xorOfRotations r1 r2 r3 x ^^^ xorOfRotations r1 r2 r3 y := by
  simp only [xorOfRotations, rotr_xor h1, rotr_xor h2, rotr_xor h3]
  ac_rfl

theorem xorOfRotationsAndShift_xor {r1 r2 : Nat} (h1 : r1 < 32) (h2 : r2 < 32) (shift : Nat) (x y : Word) :
    xorOfRotationsAndShift r1 r2 shift (x ^^^ y) =
      xorOfRotationsAndShift r1 r2 shift x ^^^ xorOfRotationsAndShift r1 r2 shift y := by
  simp only [xorOfRotationsAndShift, rotr_xor h1, rotr_xor h2, shr_xor]
  ac_rfl

theorem map_zero_of_map_xor {f : Word → Word} (hf : ∀ x y, f (x ^^^ y) = f x ^^^ f y) : f 0 = 0 :=
  calc f 0 = f (0 ^^^ 0) := by rw [BitVec.xor_self]; rfl
    _ = f 0 ^^^ f 0 := hf 0 0
    _ = 0 := BitVec.xor_self

theorem sigma_xor {f : Word → Word} (hf : f ∈ [bigSigma0, bigSigma1, smallSigma0, smallSigma1]) (x y : Word) :
    f (x ^^^ y) = f x ^^^ f y := by
  simp only [List.mem_cons, List.not_mem_nil, or_false] at hf
  obtain rfl | rfl | rfl | rfl := hf
  · exact xorOfRotations_xor (by decide) (by decide) (by decide) x y
  · exact xorOfRotations_xor (by decide) (by decide) (by decide) x y
  · exact xorOfRotationsAndShift_xor (by decide) (by decide) 3 x y
  · exact xorOfRotationsAndShift_xor (by decide) (by decide) 10 x y

/-- Settles O39: a map that distributes over `xor` fixes 0. -/
theorem sigmaFunctions : Obligations.SigmaFunctions := by
  unfold Obligations.SigmaFunctions
  refine ⟨fun x => ⟨?_, ?_, ?_, ?_⟩, fun f hf => ⟨map_zero_of_map_xor (sigma_xor hf), sigma_xor hf⟩⟩
  · simp only [bigSigma0_apply, rotr_eq_rotateRight, Nat.reduceLT]
  · simp only [bigSigma1_apply, rotr_eq_rotateRight, Nat.reduceLT]
  · simp only [smallSigma0_apply, rotr_eq_rotateRight, Nat.reduceLT, shr]
  · simp only [smallSigma1_apply, rotr_eq_rotateRight, Nat.reduceLT, shr]

end Sys2Proof.Machine
end

section
/-!
SUPPORT. The padded message word by word and bit by bit, and what its words depend on (41_padding R141 to R147).
-/

namespace Sys2Proof.Machine

/-! ### The padded length -/

/-- The boundary word lies before the two length words. -/
theorem abi_lt_padLen_sub_two (bitlen : BitVec 64) : abi bitlen < padLen bitlen.toNat - 2 := by
  rw [abi, padLen_eq]; omega

theorem nblk_mul_sixteen (bitlen : BitVec 64) : nblk bitlen * 16 = padLen bitlen.toNat := by
  rw [nblk_eq, padLen_eq]; omega

theorem nblk_le (bitlen : BitVec 64) : nblk bitlen ≤ 2 ^ 55 + 1 := by
  have := bitlen.isLt
  rw [nblk_eq]; omega

/-- 41_padding R141's division is exact: the zeros are counted so that the sum fills whole blocks. -/
theorem padLen_exact (n : Nat) : (32 * padLen n : Int) = n + (447 - (n : Int)) % 512 + 65 := by
  unfold padLen; omega

/-- The blocks that hold the message, the terminator bit and the length field are those that hold the padded message. -/
theorem fits_iff_padLen_le (n m : Nat) : n + 65 ≤ 512 * m ↔ 32 * padLen n ≤ 512 * m := by
  rw [padLen_eq]; omega

/-- Settles O40. -/
theorem paddedLengthIsLeast : Obligations.PaddedLengthIsLeast := by
  unfold Obligations.PaddedLengthIsLeast
  intro bitlen
  exact ⟨padLen_exact _, padLen_eq _, fits_iff_padLen_le _, nblk_mul_sixteen bitlen, nblk_pos bitlen, nblk_le bitlen,
    abi_lt_padLen_sub_two bitlen⟩

/-- `n` lies `r` bits into the boundary word (30_encoding R99 (5)). -/
theorem bitlen_eq_abi_add_offset (bitlen : BitVec 64) : bitlen.toNat = 32 * abi bitlen + boundaryOffset bitlen :=
  (Nat.div_add_mod _ _).symm

theorem boundaryOffset_lt (bitlen : BitVec 64) : boundaryOffset bitlen < 32 :=
  Nat.mod_lt _ (by decide)

/-- In a valid input every word with a content bit lies below `MWORDS`. -/
theorem lt_mwords_of_validInput {mwords : BitVec 60} {bitlen : BitVec 64} (hvalid : validInput mwords bitlen) {i : Nat}
    (hi : 32 * i < bitlen.toNat) : i < mwords.toNat := by
  unfold validInput at hvalid
  omega

/-! ### The padded words, a rule per case of 41_padding R143 -/

section
variable (m : Memory) (mwords : BitVec 60) (bitlen : BitVec 64)

theorem pad_of_lt_abi {i : Nat} (h : i < abi bitlen) : pad m mwords bitlen i = msgWord m mwords i := by
  rw [pad, if_pos h]

theorem pad_abi : pad m mwords bitlen (abi bitlen) = boundaryWord m mwords bitlen := by
  rw [pad, if_neg (lt_irrefl _), if_pos rfl]

theorem pad_between {i : Nat} (h : abi bitlen < i) (hi : i < padLen bitlen.toNat - 2) : pad m mwords bitlen i = 0 := by
  rw [pad, if_neg (by omega), if_neg (by omega), if_neg (by omega), if_neg (by omega)]

theorem pad_high : pad m mwords bitlen (padLen bitlen.toNat - 2) = bitlenHigh bitlen := by
  have := abi_lt_padLen_sub_two bitlen
  rw [pad, if_neg (by omega), if_neg (by omega), if_pos rfl]

theorem pad_low : pad m mwords bitlen (padLen bitlen.toNat - 1) = bitlenLow bitlen := by
  have := abi_lt_padLen_sub_two bitlen
  rw [pad, if_neg (by omega), if_neg (by omega), if_neg (by omega), if_pos rfl]

end

/-! ### The boundary word bit by bit -/

theorem getLsbD_keepMask {r k : Nat} (hr : r < 32) (hk : k < 32) : (keepMask r).getLsbD k = decide (31 - r < k) := by
  unfold keepMask
  split
  · have hnone : ¬31 - r < k := by omega
    simp [hnone]
  · have hones : (0xFFFFFFFF : Word) = BitVec.allOnes 32 := rfl
    rw [hones, BitVec.getLsbD_shiftLeft, BitVec.getLsbD_allOnes]
    by_cases hkept : 31 - r < k
    · have hin : ¬k < 32 - r ∧ k - (32 - r) < 32 := by omega
      simp [hk, hkept, hin]
    · have hout : k < 32 - r := by omega
      simp [hkept, hout]

theorem getLsbD_termWord {r : Nat} (hr : r < 32) (k : Nat) : (termWord r).getLsbD k = decide (k = 31 - r) := by
  have htop : (0x80000000 : Word) = BitVec.twoPow 32 31 := rfl
  have hbit : 31 = r + k ↔ k = 31 - r := by omega
  simp only [termWord, htop, BitVec.getLsbD_ushiftRight, BitVec.getLsbD_twoPow, hbit, Nat.reduceLT, decide_true,
    Bool.true_and]

/-- The kept content bits lie above the terminator bit, and zeros below it. -/
theorem getLsbD_keep_or_term {r k : Nat} (hr : r < 32) (hk : k < 32) (x : Word) :
    ((x &&& keepMask r) ||| termWord r).getLsbD k = if 31 - r < k then x.getLsbD k else decide (k = 31 - r) := by
  rw [BitVec.getLsbD_or, BitVec.getLsbD_and, getLsbD_keepMask hr hk, getLsbD_termWord hr]
  split
  · have hterm : ¬k = 31 - r := by omega
    simp [*]
  · simp [*]

theorem boundaryWord_of_mwords_le {m : Memory} {mwords : BitVec 60} {bitlen : BitVec 64} (h : mwords.toNat ≤ abi bitlen) :
    boundaryWord m mwords bitlen = 0x80000000 :=
  if_pos h

theorem boundaryWord_of_lt_mwords {m : Memory} {mwords : BitVec 60} {bitlen : BitVec 64} (h : abi bitlen < mwords.toNat) :
    boundaryWord m mwords bitlen =
      (memRead m (abi bitlen) &&& keepMask (boundaryOffset bitlen)) ||| termWord (boundaryOffset bitlen) :=
  if_neg (not_le.2 h)

/-- A valid input with no content word at `ABI` has no content bit there, so one rule gives the boundary word's bits. -/
theorem getLsbD_boundaryWord {mwords : BitVec 60} {bitlen : BitVec 64} (hvalid : validInput mwords bitlen) (m : Memory)
    {k : Nat} (hk : k < 32) :
    (boundaryWord m mwords bitlen).getLsbD k =
      if 31 - boundaryOffset bitlen < k then (memRead m (abi bitlen)).getLsbD k
      else decide (k = 31 - boundaryOffset bitlen) := by
  obtain hbeyond | hin := le_or_gt mwords.toNat (abi bitlen)
  · have hoffset : boundaryOffset bitlen = 0 := by
      have hnone : ¬32 * abi bitlen < bitlen.toNat := fun h => not_lt.2 hbeyond (lt_mwords_of_validInput hvalid h)
      have := bitlen_eq_abi_add_offset bitlen
      omega
    rw [boundaryWord_of_mwords_le hbeyond, hoffset, if_neg (by omega)]
    exact getLsbD_termWord (r := 0) (by decide) k
  · rw [boundaryWord_of_lt_mwords hin, getLsbD_keep_or_term (boundaryOffset_lt bitlen) hk]

/-- Settles O41, a rule of 41_padding R143 for each clause. -/
theorem paddedLayout : Obligations.PaddedLayout := by
  unfold Obligations.PaddedLayout
  intro m mwords bitlen i _
  refine ⟨fun h => pad_of_lt_abi m mwords bitlen h, fun h hi => pad_between m mwords bitlen h hi, ?_, ?_, ?_, ?_⟩
  · rintro rfl
    have := bitlen.isLt
    rw [pad_high, bitlenHigh_eq, BitVec.toNat_ofNat]
    omega
  · rintro rfl
    rw [pad_low, bitlenLow_eq, BitVec.toNat_ofNat, Nat.mod_mod]
  · rintro rfl hbeyond
    exact (pad_abi m mwords bitlen).trans (boundaryWord_of_mwords_le hbeyond)
  · rintro rfl hin k hk
    rw [show bitlen.toNat / 32 = abi bitlen from rfl, pad_abi, boundaryWord_of_lt_mwords hin]
    exact getLsbD_keep_or_term (boundaryOffset_lt bitlen) hk _

/-! ### The padded message as a bit string (41_padding R145 (7)) -/

section
variable {mwords : BitVec 60} {bitlen : BitVec 64} {k : Nat} (m : Memory)

theorem paddedBit_content (hvalid : validInput mwords bitlen) (hk : k / 32 < abi bitlen) :
    paddedBit m mwords bitlen k = messageBit m k := by
  have hn := bitlen_eq_abi_add_offset bitlen
  have hin : k / 32 < mwords.toNat := lt_mwords_of_validInput hvalid (by omega)
  rw [paddedBit, pad_of_lt_abi m mwords bitlen hk, msgWord, if_pos hin, messageBit]

/-- In the boundary word's bits the content ends at bit `n`, where the terminator stands. -/
theorem paddedBit_boundary (hvalid : validInput mwords bitlen) (hk : k / 32 = abi bitlen) :
    paddedBit m mwords bitlen k = if k < bitlen.toNat then messageBit m k else decide (k = bitlen.toNat) := by
  have hn := bitlen_eq_abi_add_offset bitlen
  have hr := boundaryOffset_lt bitlen
  have hkept : 31 - boundaryOffset bitlen < 31 - k % 32 ↔ k < bitlen.toNat := by omega
  have hterm : 31 - k % 32 = 31 - boundaryOffset bitlen ↔ k = bitlen.toNat := by omega
  rw [paddedBit, hk, pad_abi, getLsbD_boundaryWord hvalid m (by omega)]
  simp only [hkept, hterm, messageBit, hk]

theorem paddedBit_between (h : abi bitlen < k / 32) (hk : k / 32 < padLen bitlen.toNat - 2) :
    paddedBit m mwords bitlen k = false := by
  rw [paddedBit, pad_between m mwords bitlen h hk]
  exact BitVec.getLsbD_zero

/-- The two length words are the 64 bits of `n`, most significant first. -/
theorem paddedBit_length (hk : 32 * padLen bitlen.toNat - 64 ≤ k) (hlast : k < 32 * padLen bitlen.toNat) :
    paddedBit m mwords bitlen k = bitlen.getLsbD (32 * padLen bitlen.toNat - 1 - k) := by
  have hwords := abi_lt_padLen_sub_two bitlen
  obtain hword | hword : k / 32 = padLen bitlen.toNat - 2 ∨ k / 32 = padLen bitlen.toNat - 1 := by omega
  · have hbit : 32 + (31 - k % 32) = 32 * padLen bitlen.toNat - 1 - k := by omega
    rw [paddedBit, hword, pad_high, bitlenHigh, BitVec.getLsbD_extractLsb', hbit, decide_eq_true (by omega), Bool.true_and]
  · have hbit : 0 + (31 - k % 32) = 32 * padLen bitlen.toNat - 1 - k := by omega
    rw [paddedBit, hword, pad_low, bitlenLow, BitVec.getLsbD_extractLsb', hbit, decide_eq_true (by omega), Bool.true_and]

end

/-- Settles O42, along the words: below the boundary word, that word, the zeros, the length words. -/
theorem paddedBitString : Obligations.PaddedBitString := by
  unfold Obligations.PaddedBitString
  intro m mwords bitlen k hvalid hlast
  have hn := bitlen_eq_abi_add_offset bitlen
  have hr := boundaryOffset_lt bitlen
  have hwords := abi_lt_padLen_sub_two bitlen
  obtain hword | hword | hword := lt_trichotomy (k / 32) (abi bitlen)
  · rw [paddedBit_content m hvalid hword, if_pos (by omega)]
  · rw [paddedBit_boundary m hvalid hword, if_pos (show k < 32 * padLen bitlen.toNat - 64 by omega), Bool.if_true_left,
      Bool.or_false]
  · rw [if_neg (by omega), if_neg (by omega)]
    split
    · exact paddedBit_between m hword (by omega)
    · exact paddedBit_length m (by omega) hlast

/-! ### What the padded words depend on (41_padding R147) -/

/-- Bit `j` of a padded word, counted from the least significant, is a bit of the padded message. -/
theorem getLsbD_pad (m : Memory) (mwords : BitVec 60) (bitlen : BitVec 64) (i : Nat) {j : Nat} (hj : j < 32) :
    (pad m mwords bitlen i).getLsbD j = paddedBit m mwords bitlen (32 * i + (31 - j)) := by
  have hword : (32 * i + (31 - j)) / 32 = i := by omega
  have hbit : 31 - (32 * i + (31 - j)) % 32 = j := by omega
  rw [paddedBit, hword, hbit]

theorem paddedBit_congr {m m' : Memory} {mwords mwords' : BitVec 60} {bitlen : BitVec 64}
    (hvalid : validInput mwords bitlen) (hvalid' : validInput mwords' bitlen)
    (hbits : ∀ k, k < bitlen.toNat → messageBit m k = messageBit m' k) {k : Nat} (hk : k < 32 * padLen bitlen.toNat) :
    paddedBit m mwords bitlen k = paddedBit m' mwords' bitlen k := by
  rw [paddedBitString m mwords bitlen k hvalid hk, paddedBitString m' mwords' bitlen k hvalid' hk]
  split
  · exact hbits k ‹_›
  · rfl

/-- Settles O43: the padded words are their bits, and the chaining states are made of the padded words. -/
theorem bitsBeyondTheLengthAreIgnored : Obligations.BitsBeyondTheLengthAreIgnored := by
  unfold Obligations.BitsBeyondTheLengthAreIgnored
  intro m m' mwords mwords' bitlen variant hvalid hvalid' hbits
  have hpad : ∀ i, i < padLen bitlen.toNat → pad m mwords bitlen i = pad m' mwords' bitlen i := by
    intro i hi
    apply BitVec.eq_of_getLsbD_eq
    intro j hj
    rw [getLsbD_pad _ _ _ _ hj, getLsbD_pad _ _ _ _ hj]
    exact paddedBit_congr hvalid hvalid' hbits (by omega)
  refine ⟨hpad, chainBefore_congr fun i hi => hpad i ?_⟩
  rw [← nblk_mul_sixteen]
  omega

/-! ### FETCH (41_padding R146) -/

/-- Settles O23. -/
theorem fetchStoresThePaddedWord : Obligations.FetchStoresThePaddedWord := by
  unfold Obligations.FetchStoresThePaddedWord
  intro s
  have hfetch : exec .fetch s = execFetch s := rfl
  refine ⟨s.fetchedWindow, windowWord_setWindowWord _ _ _, fun j hj => ?_, fun hr => ?_, fun hr => ?_⟩
  · exact (setWindowWord_get _ _ _ _).trans (if_neg hj)
  · have hnext : s.rnd + 1 = BitVec.ofNat 4 (s.rnd.toNat + 1) := by
      rw [← rnd_succ_toNat hr, BitVec.ofNat_toNat, BitVec.setWidth_eq]
    rw [hfetch, execFetch, if_pos hr, hnext]
    rfl
  · rw [hfetch, execFetch, if_neg (by omega)]
    rfl

end Sys2Proof.Machine
end

section
/-!
SUPPORT. The in-place window slot by slot, and the schedule its four windows hold (42_schedule R162 to R165).
-/

namespace Sys2Proof.Machine

/-! ### The in-place window slot by slot (42_schedule R163) -/

theorem nextSlot_get_same (w : Words16) (j : Fin 16) :
    (nextSlot w j)[j] = wi w[j + 14] w[j + 9] w[j + 1] w[j] := by
  simp only [nextSlot, Fin.getElem_fin, Vector.getElem_set_self]

theorem nextSlot_get_ne (w : Words16) {i j : Fin 16} (h : i ≠ j) : (nextSlot w j)[i] = w[i] := by
  simp only [nextSlot, Fin.getElem_fin, Vector.getElem_set_ne _ _ (Fin.val_ne_of_ne h.symm)]

/-- A slot the list does not name keeps its word. -/
theorem foldl_nextSlot_get {l : List (Fin 16)} {i : Fin 16} (h : i ∉ l) (w : Words16) : (l.foldl nextSlot w)[i] = w[i] := by
  induction l generalizing w with
  | nil => rfl
  | cons j l ih =>
    obtain ⟨hij, hl⟩ := not_or.1 (mt List.mem_cons.2 h)
    exact (ih hl (nextSlot w j)).trans (nextSlot_get_ne w hij)

theorem mem_slots_take {i j : Fin 16} : i ∈ slots.take j.val ↔ i < j := by
  revert i j; decide

theorem mem_slots_drop {i j : Fin 16} : i ∈ slots.drop j.val ↔ j ≤ i := by
  revert i j; decide

theorem slots_drop_eq_cons (j : Fin 16) : slots.drop j.val = j :: slots.drop (j.val + 1) := by
  revert j; decide

/-- The window as slot `j` reads it: the slots before `j` are replaced. -/
def windowBefore (w : Words16) (j : Fin 16) : Words16 :=
  (slots.take j.val).foldl nextSlot w

theorem nextWindow_eq_foldl_windowBefore (w : Words16) (j : Fin 16) :
    nextWindow w = (slots.drop j.val).foldl nextSlot (windowBefore w j) := by
  rw [windowBefore, ← List.foldl_append, List.take_append_drop, nextWindow]

/-- Slot `j` reads the new word of an earlier slot and the old word of any other. -/
theorem windowBefore_get (w : Words16) (i j : Fin 16) :
    (windowBefore w j)[i] = if i < j then (nextWindow w)[i] else w[i] := by
  split
  next h =>
    rw [nextWindow_eq_foldl_windowBefore w j]
    exact (foldl_nextSlot_get (fun hm => not_le.2 h (mem_slots_drop.1 hm)) _).symm
  next h => exact foldl_nextSlot_get (fun hm => h (mem_slots_take.1 hm)) w

theorem nextWindow_get (w : Words16) (j : Fin 16) :
    (nextWindow w)[j] =
      wi (windowBefore w j)[j + 14] (windowBefore w j)[j + 9] (windowBefore w j)[j + 1] (windowBefore w j)[j] := by
  have hlater : j ∉ slots.drop (j.val + 1) := by revert j; decide
  rw [nextWindow_eq_foldl_windowBefore w j, slots_drop_eq_cons, List.foldl_cons]
  exact (foldl_nextSlot_get hlater _).trans (nextSlot_get_same _ j)

/-- `windowBefore_get` with the condition and the index of the replaced slot spelled as the rule spells them. -/
theorem windowBefore_get_of_iff (w : Words16) {i j i' : Fin 16} {p : Prop} [Decidable p] (hp : i < j ↔ p) (hi : p → i = i') :
    (windowBefore w j)[i] = if p then (nextWindow w)[i'] else w[i] := by
  rw [windowBefore_get]
  exact ite_congr (propext hp) (fun h => by rw [hi h]) fun _ => rfl

/-- The functional form: which operands of output `j` are outputs themselves (42_schedule R162). -/
theorem nextWindow_get_eq_wi (w : Words16) (j : Fin 16) :
    (nextWindow w)[j] =
      wi (if 2 ≤ j.val then (nextWindow w)[j - 2] else w[j + 14]) (if 7 ≤ j.val then (nextWindow w)[j - 7] else w[j + 9])
        (if j.val = 15 then (nextWindow w)[(0 : Fin 16)] else w[j + 1]) w[j] := by
  have ha : (j + 14 < j ↔ 2 ≤ j.val) ∧ (2 ≤ j.val → j + 14 = j - 2) := by revert j; decide
  have hb : (j + 9 < j ↔ 7 ≤ j.val) ∧ (7 ≤ j.val → j + 9 = j - 7) := by revert j; decide
  have hc : (j + 1 < j ↔ j.val = 15) ∧ (j.val = 15 → j + 1 = 0) := by revert j; decide
  rw [nextWindow_get, windowBefore_get_of_iff w ha.1 ha.2, windowBefore_get_of_iff w hb.1 hb.2,
    windowBefore_get_of_iff w hc.1 hc.2, windowBefore_get, if_neg (lt_irrefl j)]

/-! ### The schedule (42_schedule R164) -/

/-- The window that holds sixteen consecutive words of a sequence is advanced to the sixteen after them, by the recurrence. -/
theorem nextWindow_get_of_recurrence {w : Nat → Word} {t : Nat} {W : Words16} (hW : ∀ j : Fin 16, W[j] = w (t + j.val))
    (hrec : ∀ n, t ≤ n → n < t + 16 → w (n + 16) = wi (w (n + 14)) (w (n + 9)) (w (n + 1)) (w n)) (j : Fin 16) :
    (nextWindow W)[j] = w (t + j.val + 16) := by
  induction j using WellFoundedLT.induction with
  | ind j ih =>
    have hread (i : Fin 16) : (windowBefore W j)[i] = w (if i < j then t + i.val + 16 else t + i.val) := by
      rw [windowBefore_get]
      split
      · exact ih i ‹_›
      · exact hW i
    have hahead (k : Fin 16) : (windowBefore W j)[j + k] = w (t + j.val + k.val) := by
      simp only [hread, Fin.lt_def, Fin.val_add]
      congr 1
      split <;> omega
    have hown : (windowBefore W j)[j] = w (t + j.val) := by rw [hread, if_neg (lt_irrefl j)]
    rw [nextWindow_get, hahead 14, hahead 9, hahead 1, hown]
    exact (hrec _ (by omega) (by omega)).symm

/-- Settles O44, by induction on the group. -/
theorem windowsHoldTheSchedule : Obligations.WindowsHoldTheSchedule := by
  unfold Obligations.WindowsHoldTheSchedule
  intro B w hB hrec g
  induction g with
  | zero =>
    intro j _
    rw [windowOf, Nat.mul_zero, Nat.zero_add, hB]
  | succ g ih =>
    intro j hg
    rw [windowOf, Nat.mul_succ, Nat.add_right_comm]
    exact nextWindow_get_of_recurrence (fun j => ih j (by omega)) (fun n _ _ => hrec (n + 16) (by omega) (by omega)) j

/-! ### EXPAND (42_schedule R165) -/

/-- Settles O26. -/
theorem expandAdvancesTheWindow : Obligations.ExpandAdvancesTheWindow := by
  unfold Obligations.ExpandAdvancesTheWindow
  intro s
  have hexpand : exec .expand s = execExpand s := rfl
  have hgrp : BitVec.ofNat 2 (s.grp.toNat + 1) = s.grp + 1 := by
    rw [BitVec.ofNat_add, BitVec.ofNat_toNat, BitVec.setWidth_eq]
    rfl
  refine ⟨nextWindow s.w, ?_, nextWindow_get_eq_wi s.w⟩
  rw [hexpand, hgrp, execExpand, State.setW, State.setGrp, State.setRnd, State.setPhase]

end Sys2Proof.Machine
end

section
/-!
SUPPORT. The micro-operations of the compression branch by branch, its 64 rounds, and a block's 69 steps from INITV
(43_compression R171 to R177).
-/

namespace Sys2Proof.Machine

/-! ### INITV, ROUND and FEEDFWD branch by branch (43_compression R172, R174, R176) -/

theorem execInitv_eq (s : State) : execInitv s = .next { s with v := s.h, grp := 0, rnd := 0, phase := .round } := rfl

/-- Within a group ROUND goes to the next round. -/
theorem execRound_within {s : State} (hr : s.rnd.toNat < 15) :
    execRound s = .next { s with v := s.roundedWork, rnd := s.rnd + 1 } := by
  rw [execRound, afterRound, if_pos hr, State.roundedWork, State.setV, State.setRnd]

/-- The last round of a group below the last goes to EXPAND. -/
theorem execRound_group_end {s : State} (hr : s.rnd = 15) (hg : s.grp.toNat < 3) :
    execRound s = .next { s with v := s.roundedWork, phase := .expand } := by
  rw [execRound, afterRound, if_neg (by rw [hr]; decide), if_pos hg, State.roundedWork, State.setV, State.setPhase]

/-- Round 63 goes to FEEDFWD. -/
theorem execRound_block_end {s : State} (hr : s.rnd = 15) (hg : s.grp = 3) :
    execRound s = .next { s with v := s.roundedWork, phase := .feedfwd } := by
  rw [execRound, afterRound, if_neg (by rw [hr]; decide), if_neg (by rw [hg]; decide), State.roundedWork, State.setV,
    State.setPhase]

/-- EXPAND goes to the first round of the next group (42_schedule R165). -/
theorem execExpand_eq (s : State) :
    execExpand s = .next { s with w := nextWindow s.w, grp := s.grp + 1, rnd := 0, phase := .round } := by
  rw [execExpand, State.setW, State.setGrp, State.setRnd, State.setPhase]

theorem execFeedfwd_more {s : State} (hb : s.blk.toNat + 1 < nblk s.bitlen) :
    execFeedfwd s = .next { s with h := addWords s.h s.v, blk := s.blk + 1, rnd := 0, phase := .fetch } := by
  rw [execFeedfwd, afterBlock, if_pos hb, State.setH, State.setBlk, State.setRnd, State.setPhase]

theorem execFeedfwd_last {s : State} (hb : ¬s.blk.toNat + 1 < nblk s.bitlen) :
    execFeedfwd s = .next { s with h := addWords s.h s.v, phase := .done } := by
  rw [execFeedfwd, afterBlock, if_neg hb, State.setH, State.setPhase]

/-- Settles O24. -/
theorem initvCopiesTheChain : Obligations.InitvCopiesTheChain := by
  unfold Obligations.InitvCopiesTheChain
  intro s
  have hinitv : exec .initv s = execInitv s := rfl
  rw [hinitv, execInitv_eq]

/-! ### ROUND and FEEDFWD as the rules write them -/

/-- `t1` with its primitives written out (43_compression R171; the sigmas by O39). -/
theorem roundT1_mk (a b c d e f g h k w : Word) :
    roundT1 #v[a, b, c, d, e, f, g, h] k w =
      h + (e.rotateRight 6 ^^^ e.rotateRight 11 ^^^ e.rotateRight 25) + ((e &&& f) ^^^ (~~~e &&& g)) + k + w := by
  obtain ⟨hsigmas, -⟩ := sigmaFunctions
  obtain ⟨-, hsigma1, -⟩ := hsigmas e
  rw [← hsigma1]
  rfl

/-- `t2` with its primitives written out (43_compression R171; the sigmas by O39). -/
theorem roundT2_mk (a b c d e f g h : Word) :
    roundT2 #v[a, b, c, d, e, f, g, h] =
      (a.rotateRight 2 ^^^ a.rotateRight 13 ^^^ a.rotateRight 22) + ((a &&& b) ^^^ (a &&& c) ^^^ (b &&& c)) := by
  obtain ⟨hsigmas, -⟩ := sigmaFunctions
  obtain ⟨hsigma0, -⟩ := hsigmas a
  rw [← hsigma0]
  rfl

theorem roundFn_mk (a b c d e f g h k w : Word) :
    roundFn #v[a, b, c, d, e, f, g, h] k w =
      #v[roundT1 #v[a, b, c, d, e, f, g, h] k w + roundT2 #v[a, b, c, d, e, f, g, h], a, b, c,
        d + roundT1 #v[a, b, c, d, e, f, g, h] k w, e, f, g] := rfl

/-- A counter that counts up, as the successor of its value. -/
theorem add_one_eq_ofNat {n : Nat} (x : BitVec n) : x + 1#n = BitVec.ofNat n (x.toNat + 1) := by
  rw [BitVec.ofNat_add, BitVec.ofNat_toNat, BitVec.setWidth_eq]

/-- Settles O25: the round function on the eight variables named, then the branches of ROUND. -/
theorem roundComputesTheRule : Obligations.RoundComputesTheRule := by
  unfold Obligations.RoundComputesTheRule
  intro s a b c d e f g h t1 t2 hv ht1 ht2
  have hround : exec .round s = execRound s := rfl
  have hwork : s.roundedWork = #v[t1 + t2, a, b, c, d + t1, e, f, g] := by
    rw [State.roundedWork, hv, roundFn_mk, roundT1_mk, roundT2_mk, flatRound, windowWord, ← ht1, ← ht2]
  rw [hround, ← hwork]
  refine ⟨fun hr => ?_, fun hr hg => ?_, fun hr hg => ?_⟩
  · rw [execRound_within hr, ← add_one_eq_ofNat]
    rfl
  · exact execRound_group_end (rnd_eq_last (by omega)) hg
  · exact execRound_block_end (rnd_eq_last (by omega)) (grp_eq_last (by omega))

/-- Settles O27: the sum word by word, then the branches of FEEDFWD. -/
theorem feedfwdAddsAndGoesOn : Obligations.FeedfwdAddsAndGoesOn := by
  unfold Obligations.FeedfwdAddsAndGoesOn
  intro s
  have hfeedfwd : exec .feedfwd s = execFeedfwd s := rfl
  refine ⟨addWords s.h s.v, fun i => ?_, fun hb => ?_, fun hb => ?_⟩
  · rw [addWords_get, ← BitVec.toNat_add, BitVec.ofNat_toNat, BitVec.setWidth_eq]
  · rw [hfeedfwd, execFeedfwd_more hb, ← add_one_eq_ofNat]
    rfl
  · exact execFeedfwd_last (not_lt.2 hb)

/-! ### `compress` as 64 rounds (43_compression R175) -/

/-- The rounds over `K[t]` and the words `w[t]` that the rolling windows hold are those of a block. -/
theorem eq_workAfter_of_rounds {B : Words16} {w : Nat → Word} {v : Nat → Words8}
    (hw : ∀ (g : Nat) (j : Fin 16), g < 4 → (windowOf B g)[j] = w (16 * g + j.val))
    (hv : ∀ t, t < 64 → v (t + 1) = roundFn (v t) (K t) (w t)) {t : Nat} (ht : t ≤ 64) : v t = workAfter (v 0) B t := by
  induction t with
  | zero => rfl
  | succ t ih =>
    have hslot : (windowOf B (t / 16))[t % 16] = w t := by
      have := hw (t / 16) ⟨t % 16, Nat.mod_lt t (by decide)⟩ (by omega)
      rwa [Nat.div_add_mod] at this
    rw [hv t ht, ih (by omega), workAfter, hslot]

/-- Settles O45: the four windows hold the schedule (O44), so the rounds are those of `compress`. -/
theorem compressIsSixtyFourRounds : Obligations.CompressIsSixtyFourRounds := by
  unfold Obligations.CompressIsSixtyFourRounds
  intro S B w v hB hrec hS hv i
  have hwork : v 64 = workAfter S B 64 := hS ▸ eq_workAfter_of_rounds (windowsHoldTheSchedule B w hB hrec) hv (le_refl 64)
  rw [compress_eq_addWords_workAfter, addWords_get, hwork]

/-! ### The 69 steps from INITV (43_compression R177) -/

/-- A block begun in state `s`, before round `rnd` of group `grp`: the windows and the working variables are those of the block
in `W` and the chaining state in `H`. -/
def State.atRound (s : State) (grp : BitVec 2) (rnd : BitVec 4) : State :=
  { s with
    v := workAfter s.h s.w (flatRound grp rnd), w := windowOf s.w grp.toNat, grp := grp, rnd := rnd, phase := .round }

theorem atRound_roundedWork (s : State) (grp : BitVec 2) (rnd : BitVec 4) :
    (s.atRound grp rnd).roundedWork = workAfter s.h s.w (flatRound grp rnd + 1) :=
  roundedWork_eq_workAfter rfl rfl

theorem runSteps_then_step {m : Nat} {s t : State} (h : runSteps m s = .next t) : runSteps (m + 1) s = step t :=
  (runSteps_add h).trans runSteps_one

section
variable {s : State} (ht : s.turns = [])
include ht

theorem step_initv_atRound (hp : s.phase = .initv) : step s = .next (s.atRound 0 0) := by
  rw [step_alone_initv ht hp, execInitv_eq]
  rfl

theorem step_atRound (grp : BitVec 2) (rnd : BitVec 4) : step (s.atRound grp rnd) = execRound (s.atRound grp rnd) :=
  step_alone_round ht rfl

theorem step_atRound_within (grp : BitVec 2) {rnd : BitVec 4} (hr : rnd.toNat < 15) :
    step (s.atRound grp rnd) = .next (s.atRound grp (rnd + 1)) := by
  rw [step_atRound ht, execRound_within hr, atRound_roundedWork, ← flatRound_succ hr]
  rfl

/-- Fifteen rounds lead from a group's first round to its last. -/
theorem runSteps_atRound_last (grp : BitVec 2) : runSteps 15 (s.atRound grp 0) = .next (s.atRound grp 15) := by
  have hsteps (k : Nat) (hk : k ≤ 15) : runSteps k (s.atRound grp 0) = .next (s.atRound grp (BitVec.ofNat 4 k)) := by
    induction k with
    | zero => rfl
    | succ k ih =>
      have hk' : (BitVec.ofNat 4 k).toNat = k := by rw [BitVec.toNat_ofNat]; omega
      rw [runSteps_then_step (ih (by omega)), step_atRound_within ht grp (by omega), BitVec.ofNat_add]
      rfl
  exact hsteps 15 (le_refl 15)

/-- The sixteen rounds of a group and EXPAND lead to the first round of the next group. -/
theorem runSteps_group {grp : BitVec 2} (hg : grp.toNat < 3) :
    runSteps 17 (s.atRound grp 0) = .next (s.atRound (grp + 1) 0) := by
  have hround := step_atRound ht grp 15
  rw [execRound_group_end rfl hg, atRound_roundedWork, ← runSteps_then_step (runSteps_atRound_last ht grp)] at hround
  rw [runSteps_then_step hround, step_alone_expand, execExpand_eq]
  · unfold State.atRound
    rw [flatRound_last, flatRound_first, grp_succ_toNat hg, windowOf]
  · exact ht
  · rfl

/-- From INITV, 52 steps lead to the first round of the last group. -/
theorem runSteps_initv_last_group (hp : s.phase = .initv) : runSteps 52 s = .next (s.atRound 3 0) := by
  have h0 : runSteps 1 s = .next (s.atRound 0 0) := runSteps_one.trans (step_initv_atRound ht hp)
  have h1 : runSteps 18 s = .next (s.atRound 1 0) := (runSteps_add h0).trans (runSteps_group ht (by decide))
  have h2 : runSteps 35 s = .next (s.atRound 2 0) := (runSteps_add h1).trans (runSteps_group ht (by decide))
  exact (runSteps_add h2).trans (runSteps_group ht (by decide))

/-- The state 68 steps after INITV, before FEEDFWD. -/
theorem runSteps_initv_feedfwd (hp : s.phase = .initv) :
    runSteps 68 s = .next
      { s with v := workAfter s.h s.w 64, w := windowOf s.w 3, grp := 3, rnd := 15, phase := .feedfwd } := by
  have hlast : runSteps 67 s = .next (s.atRound 3 15) :=
    (runSteps_add (runSteps_initv_last_group ht hp)).trans (runSteps_atRound_last ht 3)
  rw [runSteps_then_step hlast, step_atRound ht, execRound_block_end rfl rfl, atRound_roundedWork]
  rfl

end

/-- Settles O46: INITV, three groups with their EXPAND, the last group, and FEEDFWD. -/
theorem compressInSixtyNineSteps : Obligations.CompressInSixtyNineSteps := by
  unfold Obligations.CompressInSixtyNineSteps
  intro s hp ht
  refine ⟨workAfter s.h s.w 64, windowOf s.w 3, ?_⟩
  rw [runSteps_then_step (runSteps_initv_feedfwd ht hp), step_alone_feedfwd, compress_eq_addWords_workAfter]
  · split
    · exact execFeedfwd_more ‹_›
    · exact execFeedfwd_last ‹_›
  · exact ht
  · rfl

end Sys2Proof.Machine
end

section
/-!
SUPPORT. What each host access does, register by register: who starts a run, who writes the configuration, and that a read only
answers (44_engine R192, R206).
-/

namespace Sys2Proof.Machine

/-! ### CTRL (44_engine R192) -/

/-- An accepted START. -/
theorem writeCtrl_start {d : Word} {s : State} (hd : d.getLsbD 0 = true) (h : s.phase = .idle ∨ s.phase = .done) :
    writeCtrl d s = .next (s.setPhase .loadiv) := by
  rw [writeCtrl, hd, busy_eq_false.2 h]; rfl

theorem writeCtrl_busy {s : State} (h : ¬(s.phase = .idle ∨ s.phase = .done)) (d : Word) : writeCtrl d s = .next s := by
  rw [writeCtrl, busy_eq_true.2 h, Bool.not_true, Bool.and_false]; rfl

theorem writeCtrl_clear {d : Word} (hd : d.getLsbD 0 = false) (s : State) : writeCtrl d s = .next s := by
  rw [writeCtrl, hd, Bool.false_and]; rfl

/-- Settles O12: START and CTRLNOP are both the write of CTRL, branch by branch. -/
theorem startIsAcceptedOnlyAtRest : Obligations.StartIsAcceptedOnlyAtRest := by
  unfold Obligations.StartIsAcceptedOnlyAtRest
  intro d s
  exact ⟨writeCtrl_start, fun _ hbusy => writeCtrl_busy hbusy d, fun hd => writeCtrl_clear hd s, rfl⟩

/-! ### The effect of an access, with the access -/

/-- `HostEffect` with the access that has it: each change of the configuration or the phase is a write of its own register, with
the datum it takes. -/
inductive AccessEffect (s : State) : HostAccess → State → Prop where
  | answered (regno : Nat) (x : Word) : AccessEffect s (.read regno) (s.setHostData x)
  | ignored (regno : Nat) (d : Word) : AccessEffect s (.write regno d) s
  | started (d : Word) (hd : d.getLsbD 0 = true) (hrest : s.busy = false) :
    AccessEffect s (.write 0 d) (s.setPhase .loadiv)
  | variant (d : Word) (hrest : s.busy = false) : AccessEffect s (.write 2 d) (s.setVariant (variantOfDatum d))
  | bitlenLow (d : Word) (hrest : s.busy = false) :
    AccessEffect s (.write 3 d) (s.setBitlen (withBitlenLow s.bitlen d))
  | bitlenHigh (d : Word) (hrest : s.busy = false) :
    AccessEffect s (.write 4 d) (s.setBitlen (withBitlenHigh s.bitlen d))
  | mwordsLow (d : Word) (hrest : s.busy = false) :
    AccessEffect s (.write 5 d) (s.setMwords (withMwordsLow s.mwords d))
  | mwordsHigh (d : Word) (hrest : s.busy = false) :
    AccessEffect s (.write 6 d) (s.setMwords (withMwordsHigh s.mwords d))

theorem writeCtrl_accessEffect {d : Word} {s t : State} (h : writeCtrl d s = .next t) : AccessEffect s (.write 0 d) t := by
  obtain ⟨hd, hrest, rfl⟩ | ⟨-, rfl⟩ := writeCtrl_next h
  · exact .started d hd hrest
  · exact .ignored 0 d

theorem configWrite_accessEffect {regno : Nat} {d : Word} {written s t : State} (h : configWrite written s = .next t)
    (hwritten : s.busy = false → AccessEffect s (.write regno d) written) : AccessEffect s (.write regno d) t := by
  obtain ⟨-, rfl⟩ | ⟨hrest, rfl⟩ := configWrite_next h
  · exact .ignored regno d
  · exact hwritten hrest

/-- Every write of a register that has a code, register by register (30_encoding R102). -/
theorem decodeWrite_accessEffect {regno : Nat} (hregno : regno < 16) {d : Word} {s t : State}
    (h : exec (decodeWrite (BitVec.ofNat 4 regno) d) s = .next t) : AccessEffect s (.write regno d) t := by
  rw [decodeWrite, BitVec.toNat_ofNat, Nat.mod_eq_of_lt hregno] at h
  split at h
  case h_1 => split at h <;> exact writeCtrl_accessEffect h
  case h_3 => exact configWrite_accessEffect h (.variant d)
  case h_4 => exact configWrite_accessEffect h (.bitlenLow d)
  case h_5 => exact configWrite_accessEffect h (.bitlenHigh d)
  case h_6 => exact configWrite_accessEffect h (.mwordsLow d)
  case h_7 => exact configWrite_accessEffect h (.mwordsHigh d)
  all_goals exact ignoredWrite_next h ▸ .ignored _ d

/-- Everything a host move can do, with the access it is. -/
theorem hostMove_accessEffect {a : HostAccess} {s t : State} (h : hostMove a s = .next t) : AccessEffect s a t := by
  cases a with
  | read regno =>
    obtain hregno | hregno := lt_or_ge regno 16
    · rw [hostMove_read hregno] at h
      obtain ⟨x, rfl⟩ := decodeRead_effect h
      exact .answered regno x
    · rw [hostMove_read_reserved hregno] at h
      cases h
      exact .answered regno 0
  | write regno d =>
    obtain hregno | hregno := lt_or_ge regno 16
    · rw [hostMove_write hregno] at h
      exact decodeWrite_accessEffect hregno h
    · rw [hostMove_write_reserved hregno] at h
      cases h
      exact .ignored regno d

/-- Settles O19: a host move always answers, and the one effect a read can have is an answer. -/
theorem hostReadsChangeNothing : Obligations.HostReadsChangeNothing := by
  unfold Obligations.HostReadsChangeNothing
  intro s regno rest hturn
  rw [step_of_host hturn]
  obtain ⟨t, ht⟩ := hostMove_answers (.read regno) (s.setTurns rest)
  rw [ht]
  cases hostMove_accessEffect ht with
  | answered _ x => exact ⟨x, rfl⟩

/-! ### Who controls the engine (44_engine R192, R203, R206; 10_state R34) -/

/-- The engine never enters LOADIV. -/
theorem EngineEffect.phase_ne_loadiv {s t : State} (h : EngineEffect s t) : t.phase ≠ .loadiv := by
  cases h with
  | rested hp => obtain hp | hp := hp <;> simp [hp]
  | wordFetched hp | rounded hp => simp [hp]
  | _ => exact Phase.noConfusion

/-- At rest the engine stays where it is. -/
theorem EngineEffect.eq_of_rest {s t : State} (h : EngineEffect s t) (hrest : s.phase = .idle ∨ s.phase = .done) : t = s := by
  cases h with
  | rested => rfl
  | ivLoaded hp | wordFetched hp | blockFetched hp | workLoaded hp | rounded hp | groupRounded hp | blockRounded hp
  | expanded hp | blockAdded hp | runEnded hp => simp [hp] at hrest

/-- A step on the host's turn has an effect of its access, the turn used up. -/
theorem step_accessEffect {s t : State} {a : HostAccess} (ha : (nextTurn s).1 = .host a) (h : step s = .next t) :
    AccessEffect (s.setTurns (nextTurn s).2) a t := by
  rw [step, ha] at h
  exact hostMove_accessEffect h

/-- Settles O31: the engine keeps the configuration, rests at rest and enters neither IDLE nor LOADIV; of the host's accesses each
changes at most its own register, at rest; placing a word changes the message alone. -/
theorem whoControlsTheEngine : Obligations.WhoControlsTheEngine := by
  unfold Obligations.WhoControlsTheEngine
  intro s t h hreset
  obtain ⟨-, he⟩ | ⟨a, ha, -⟩ | ⟨i, value, -, -, rfl⟩ | ⟨hr, -⟩ := step_cases h
  · have he := exec_nextMicroOp_effect_setTurns he
    have hkept := he.inputKept
    exact ⟨fun hrest hne => absurd (congrArg State.phase (he.eq_of_rest hrest)) hne,
      fun hloadiv => absurd hloadiv he.phase_ne_loadiv,
      (em (s.phase = .idle)).symm.imp_left he.keeps_begun,
      absurd hkept.variant, absurd hkept.bitlen, absurd hkept.mwords⟩
  · rw [ha]
    have hstep := step_accessEffect ha h
    cases hstep with
    | answered | ignored => simp +contextual [em']
    | started d hd hrest =>
      have hrest : s.phase = .idle ∨ s.phase = .done := busy_eq_false.1 hrest
      simp [hd, hrest]
    | variant d hrest | bitlenLow d hrest | bitlenHigh d hrest | mwordsLow d hrest | mwordsHigh d hrest =>
      have hrest : s.phase = .idle ∨ s.phase = .done := busy_eq_false.1 hrest
      simp [em', hrest]
  · simp +contextual [em']
  · exact absurd hr hreset

end Sys2Proof.Machine
end

section
/-!
SUPPORT. The sequencer's own micro-operations IDLE, LOADIV and DONE (44_engine R197, R198, R203).
-/

namespace Sys2Proof.Machine

/-- Settles O21: IDLE and DONE answer the state they find, and the resting phases run them. -/
theorem restingPhasesDoNothing : Obligations.RestingPhasesDoNothing := by
  unfold Obligations.RestingPhasesDoNothing
  intro s
  refine ⟨rfl, rfl, fun hrest ht => ?_⟩
  obtain hp | hp := hrest
  · exact step_alone_idle ht hp
  · exact step_alone_done ht hp

theorem execLoadiv_eq (s : State) :
    execLoadiv s = .next { s with h := initialVector s.variant, blk := 0, rnd := 0, phase := .fetch } := rfl

/-- Settles O22: the vector LOADIV selects is `IV256` or `IV224`. -/
theorem loadivLoadsTheInitialVector : Obligations.LoadivLoadsTheInitialVector := by
  unfold Obligations.LoadivLoadsTheInitialVector
  intro s
  have hloadiv : exec .loadiv s = execLoadiv s := rfl
  rw [hloadiv, execLoadiv_eq]
  refine ⟨fun hv => ?_, fun hv => ?_⟩ <;> rw [hv]
  · rw [initialVector, if_neg (by decide), IV256]
  · rw [initialVector, if_pos rfl, IV224]

end Sys2Proof.Machine
end

section
/-!
SUPPORT. Whole blocks, runs and calls: the 85 steps of a block, the digest a run leaves, and what it depends on
(44_engine R190 to R204).
-/

namespace Sys2Proof.Machine

/-! ### The 85 steps of a block (44_engine R200) -/

/-- Before the last word FETCH goes to the next word. -/
theorem execFetch_within {s : State} (hr : s.rnd.toNat < 15) :
    execFetch s = .next { s with w := s.fetchedWindow, rnd := s.rnd + 1 } := by
  rw [execFetch, if_pos hr, State.fetchedWindow, State.setW, State.setRnd]

/-- The last FETCH of a block goes to INITV. -/
theorem execFetch_block_end {s : State} (hr : s.rnd = 15) :
    execFetch s = .next { s with w := s.fetchedWindow, phase := .initv } := by
  rw [execFetch, if_neg (by rw [hr]; decide), State.fetchedWindow, State.setW, State.setPhase]

/-- A block's fetch begun in state `s`, before word `rnd`, with `w` the window so far. -/
def State.atFetch (s : State) (w : Words16) (rnd : BitVec 4) : State :=
  { s with w := w, rnd := rnd }

section
variable {s : State} (hp : s.phase = .fetch) (ht : s.turns = [])
include hp ht

theorem step_atFetch (w : Words16) (rnd : BitVec 4) : step (s.atFetch w rnd) = execFetch (s.atFetch w rnd) :=
  step_alone_fetch ht hp

/-- Up to a block's last word, each step from its first FETCH fetches one more padded word. -/
theorem runSteps_fetch (hr : s.rnd = 0) {k : Nat} (hk : k ≤ 15) :
    ∃ w : Words16, runSteps k s = .next (s.atFetch w (BitVec.ofNat 4 k)) ∧
      ∀ j : Fin 16, j.val < k → w[j] = s.pad (16 * s.blk.toNat + j.val) := by
  induction k with
  | zero =>
    have hfirst : s = s.atFetch s.w 0 := by rw [State.atFetch, ← hr]
    exact ⟨s.w, congrArg _ hfirst, fun j hj => absurd hj (Nat.not_lt_zero _)⟩
  | succ k ih =>
    obtain ⟨w, hrun, hw⟩ := ih (by omega)
    have hrnd : (s.atFetch w (BitVec.ofNat 4 k)).rnd.toNat = k := (BitVec.toNat_ofNat _ _).trans (by omega)
    refine ⟨(s.atFetch w (BitVec.ofNat 4 k)).fetchedWindow, ?_, fun j hj => ?_⟩
    · rw [runSteps_then_step hrun, step_atFetch hp ht, execFetch_within (by omega), BitVec.ofNat_add]
      rfl
    · exact fetchedWindow_get (s := s.atFetch w (BitVec.ofNat 4 k)) (by rwa [hrnd]) j (by rwa [hrnd])

/-- Sixteen steps fetch the block. -/
theorem runSteps_fetch_block (hr : s.rnd = 0) :
    runSteps 16 s = .next { s with w := s.block, rnd := 15, phase := .initv } := by
  obtain ⟨w, hrun, hw⟩ := runSteps_fetch hp ht hr (le_refl 15)
  have hblock : (s.atFetch w 15).fetchedWindow = s.block := fetchedWindow_eq_block (s := s.atFetch w 15) rfl hw
  rw [← hblock, runSteps_then_step hrun, step_atFetch hp ht, execFetch_block_end rfl]
  rfl

end

/-- Settles O47: sixteen FETCH steps, then the 69 of O46. -/
theorem blockInEightyFiveSteps : Obligations.BlockInEightyFiveSteps := by
  unfold Obligations.BlockInEightyFiveSteps
  intro s hp hr ht
  obtain ⟨v', w', hrun⟩ := compressInSixtyNineSteps { s with w := s.block, rnd := 15, phase := .initv } rfl ht
  exact ⟨v', w', (runSteps_add (runSteps_fetch_block hp ht hr)).trans hrun⟩

/-! ### The digest a run leaves (44_engine R190, R201, R202) -/

/-- In DONE with the final chaining state in `H`, the DIGEST registers hold the digest, and 0 where it has no word. -/
theorem digestWord_of_finalChain {t : State} {m : Memory} {mwords : BitVec 60} {bitlen : BitVec 64} (hp : t.phase = .done)
    (hh : t.h = finalChain m mwords bitlen t.variant) (i : BitVec 3) :
    digestWord t i = (digest m mwords bitlen t.variant).getD i.toNat 0 := by
  rw [digestWord, if_neg (not_not.2 hp), digest, ← hh]
  have hget : t.h[i.toNat] = t.h.toList.getD i.toNat 0 := by
    simp [List.getD_eq_getElem?_getD, i.isLt]
  by_cases hv : t.variant = 1
  · rw [if_pos hv]
    by_cases hi : i = 7
    · rw [if_pos ⟨hv, hi⟩, hi]
      simp
    · have hlt : i.toNat < 7 := by bv_omega
      rw [if_neg (fun h => hi h.2), hget, List.getD_eq_getElem?_getD, List.getD_eq_getElem?_getD, List.getElem?_take_of_lt hlt]
  · rw [if_neg (fun h => hv h.1), if_neg hv, hget]

/-- A host access leaves the phase as it is or starts a run. -/
theorem HostEffect.phase_cases {s t : State} (h : HostEffect s t) : t.phase = s.phase ∨ t.phase = .loadiv := by
  cases h with
  | started => exact .inr rfl
  | answered | ignored | variant | bitlen | mwords => exact .inl rfl

/-- DONE is entered by the last FEEDFWD of a run alone. -/
theorem step_enters_done {s t : State} (h : step s = .next t) (hs : s.phase ≠ .done) (ht : t.phase = .done) :
    s.phase = .feedfwd ∧ ¬s.blk.toNat + 1 < nblk s.bitlen ∧
      t = { s with h := addWords s.h s.v, phase := .done, turns := (nextTurn s).2 } := by
  obtain ⟨-, he⟩ | ⟨a, -, he⟩ | ⟨i, value, -, -, rfl⟩ | ⟨-, rfl⟩ := step_cases h
  · obtain rfl | hended := (exec_nextMicroOp_effect_setTurns he).done_cases ht
    · exact absurd ht hs
    · exact hended
  · obtain hp | hp := he.phase_cases
    · exact absurd (hp.symm.trans ht) hs
    · exact absurd (hp.symm.trans ht) Phase.noConfusion
  · exact absurd ht hs
  · exact absurd ht Phase.noConfusion

/-- Settles O36: the last FEEDFWD of a run turns the chaining state before the last block into the final one. -/
theorem enteringDoneLeavesTheDigest : Obligations.EnteringDoneLeavesTheDigest := by
  unfold Obligations.EnteringDoneLeavesTheDigest
  intro s t ⟨⟨hl, _⟩, hd⟩ h hs ht
  obtain ⟨hp, hb, rfl⟩ := step_enters_done h hs ht
  have hh := addWords_eq_finalChain hp hb hl hd
  exact ⟨hh, digestWord_of_finalChain rfl hh⟩

/-- Settles O48: of the `1 + 85 * NBLK` steps of a run one is left for each step not yet made, and DONE has none left. -/
theorem everyRunEndsWithTheDigest : Obligations.EveryRunEndsWithTheDigest := by
  unfold Obligations.EveryRunEndsWithTheDigest
  intro s hp ht
  obtain ⟨t, hrun, hdone, hh, hkept⟩ := runSteps_of_loadiv hp ht
  refine ⟨⟨t, hrun, hdone, hh, hkept.bitlen, hkept.mwords, hkept.variant, hkept.msg, hkept.hostData⟩, fun k hk => ?_⟩
  obtain ⟨u, hrun, hin, -, hleft⟩ := runSteps_inRun k (inRun_of_loadiv hp) ht
  refine ⟨u, hrun, hin.begun, fun hu => ?_⟩
  simp only [stepsLeft, hp, hu] at hleft
  omega

/-! ### A call (44_engine R191) -/

/-- The engine's turn does not look at the moves to come. -/
theorem exec_nextMicroOp_setTurns {s t : State} (h : exec (nextMicroOp s) s = .next t) (turns : List Turn) :
    exec (nextMicroOp s) (s.setTurns turns) = .next (t.setTurns turns) := by
  have hexec := exec_nextMicroOp s
  cases exec_nextMicroOp_effect h with
  | rested hp => obtain hp | hp := hp <;> rw [hp] at hexec <;> rw [hexec] <;> rfl
  | ivLoaded hp => rw [hp] at hexec; rw [hexec]; exact execLoadiv_eq _
  | wordFetched hp hr => rw [hp] at hexec; rw [hexec]; exact execFetch_within hr
  | blockFetched hp hr => rw [hp] at hexec; rw [hexec]; exact execFetch_block_end hr
  | workLoaded hp => rw [hp] at hexec; rw [hexec]; exact execInitv_eq _
  | rounded hp hr => rw [hp] at hexec; rw [hexec]; exact execRound_within hr
  | groupRounded hp hr hg => rw [hp] at hexec; rw [hexec]; exact execRound_group_end hr hg
  | blockRounded hp hr hg => rw [hp] at hexec; rw [hexec]; exact execRound_block_end hr hg
  | expanded hp => rw [hp] at hexec; rw [hexec]; exact execExpand_eq _
  | blockAdded hp hb => rw [hp] at hexec; rw [hexec]; exact execFeedfwd_more hb
  | runEnded hp hb => rw [hp] at hexec; rw [hexec]; exact execFeedfwd_last hb

/-- On the engine's turn a step is the one the engine makes alone, with the turns after it still to come. -/
theorem step_engineTurn {s t : State} {rest : List Turn} (hs : s.turns = .engine :: rest) (h : step s.alone = .next t) :
    step s = .next (t.setTurns rest) :=
  (step_of_engine (.inr hs)).trans (exec_nextMicroOp_setTurns (s := s.alone) (step_alone (s := s.alone) rfl ▸ h) rest)

/-- Turns of the engine lead where the engine left alone goes. -/
theorem runSteps_engineTurns {k : Nat} {s t : State} {rest : List Turn} (hs : s.turns = List.replicate k .engine ++ rest)
    (h : runSteps k s.alone = .next t) : runSteps k s = .next (t.setTurns rest) := by
  induction k generalizing s with
  | zero =>
    cases h
    have hrest : s.turns = rest := hs
    rw [runSteps, State.alone, State.setTurns, ← hrest]
  | succ k ih =>
    obtain ⟨u, hu⟩ := step_alone_answers (s := s.alone) rfl
    have hturns : [] = u.turns := (step_alone_effect rfl hu).inputKept.turns.symm
    have halone : (u.setTurns (List.replicate k .engine ++ rest)).alone = u := by
      rw [State.alone, State.setTurns, hturns]
    rw [runSteps_succ, hu] at h
    rw [runSteps_succ, step_engineTurn hs hu]
    exact ih rfl (halone.symm ▸ h)

/-- The host's START at rest, the turn used up. -/
theorem step_start {s : State} {d : Word} {rest : List Turn} (hrest : s.phase = .idle ∨ s.phase = .done)
    (hd : d.getLsbD 0 = true) (hs : s.turns = .host (.write 0 d) :: rest) :
    step s = .next ((s.setPhase .loadiv).setTurns rest) := by
  rw [step_of_host hs, hostMove_write (by decide), show BitVec.ofNat 4 0 = 0 from rfl, decodeWrite_ctrl_of_set hd]
  exact writeCtrl_start hd hrest

/-- The host's read of DIGEST register `i`, the turn used up (44_engine R196). -/
theorem step_readDigest {s : State} {i : BitVec 3} {rest : List Turn} (hs : s.turns = .host (.read (8 + i.toNat)) :: rest) :
    step s = .next ((s.setTurns rest).setHostData (digestWord s i)) := by
  have hregno : BitVec.ofNat 4 (8 + i.toNat) = 1#1 ++ i := by
    clear hs
    revert i
    decide
  rw [step_of_host hs, hostMove_read (by omega), hregno, decodeRead_digest]
  rfl

/-- Settles O49: the START begins a run of the input, the engine's turns end it as the engine left alone would, and the read gives
the digest word then in `H`. -/
theorem aCallReturnsTheDigest : Obligations.ACallReturnsTheDigest := by
  unfold Obligations.ACallReturnsTheDigest
  intro s d i hrest hd hturns
  obtain ⟨t, hrun, hdone, hh, hkept⟩ := runSteps_of_loadiv (s := (s.setPhase .loadiv).alone) rfl rfl
  have hvariant : s.variant = t.variant := hkept.variant.symm
  have hword : digestWord t (BitVec.ofFin i) = (digest s.msg s.mwords s.bitlen s.variant).getD i.val 0 := by
    rw [hvariant]
    exact digestWord_of_finalChain hdone (hvariant ▸ hh) _
  have hstart := runSteps_one.trans (step_start hrest hd hturns)
  have hengine := (runSteps_add hstart).trans (runSteps_engineTurns rfl hrun)
  have hread := (runSteps_then_step hengine).trans (step_readDigest (i := BitVec.ofFin i) rfl)
  rw [show 3 + 85 * nblk s.bitlen = 1 + (1 + 85 * nblk s.bitlen) + 1 by omega]
  exact ⟨_, hread, congrArg some hword⟩

/-! ### What a run depends on (44_engine R204) -/

/-- The DIGEST registers show the phase, the variant and `H` alone. -/
theorem digestWord_congr {s t : State} (hp : s.phase = t.phase) (hv : s.variant = t.variant) (hh : s.h = t.h) (i : BitVec 3) :
    digestWord s i = digestWord t i := by
  simp only [digestWord, hp, hv, hh]

/-- Settles O50: both runs end with the final chaining state of their input, which the words in question determine. -/
theorem runsDependOnTheirInputAlone : Obligations.RunsDependOnTheirInputAlone := by
  unfold Obligations.RunsDependOnTheirInputAlone
  intro s t hs ht hsalone htalone hbitlen hmwords hvariant hmsg
  obtain ⟨s', hsrun, hsdone, hsh, hskept⟩ := runSteps_of_loadiv hs hsalone
  obtain ⟨t', htrun, htdone, hth, htkept⟩ := runSteps_of_loadiv ht htalone
  rw [← hbitlen] at htrun
  have hchain : finalChain s.msg s.mwords s.bitlen s.variant = finalChain t.msg t.mwords t.bitlen t.variant := by
    rw [← hbitlen, ← hmwords, ← hvariant]
    exact chainBefore_congr fun i _ => pad_congr (hmsg i)
  have hh : s'.h = t'.h := by rw [hsh, hth, hchain]
  have hv : s'.variant = t'.variant := by rw [hskept.variant, htkept.variant, hvariant]
  exact ⟨s', t', hsrun, htrun, hsdone, htdone, hh, digestWord_congr (hsdone.trans htdone.symm) hv hh⟩

end Sys2Proof.Machine
end

section
/-!
SUPPORT. Where a step can stop (60_exceptions R220, 70_reset R255).
-/

namespace Sys2Proof.Machine

/-- A reset's turn is the reset event, the turn used up. -/
theorem step_of_reset {s : State} {rest : List Turn} (h : s.turns = .reset :: rest) :
    step s = .next (resetEvent (s.setTurns rest)) := by
  simp only [step, nextTurn, h, takeTurn]

/-- Settles O8: turn by turn, only a placing can be refused. -/
theorem onlyAMessageChangeStops : Obligations.OnlyAMessageChangeStops := by
  unfold Obligations.OnlyAMessageChangeStops
  refine ⟨exec_answers, fun s => ?_⟩
  match hturns : s.turns with
  | [] => exact .inl (step_alone_answers hturns)
  | .engine :: rest => exact .inl (step_of_engine (.inr hturns) ▸ exec_answers _ _)
  | .host a :: rest => exact .inl (step_of_host hturns ▸ hostMove_answers a _)
  | .reset :: rest => exact .inl ⟨_, step_of_reset hturns⟩
  | .place i value :: rest =>
    rw [step_of_place hturns]
    by_cases hrest : s.phase = .idle ∨ s.phase = .done
    · exact .inl ⟨_, placeWord_rest hrest⟩
    · exact .inr ⟨placeWord_busy hrest, hrest, i, value, rest, rfl⟩

end Sys2Proof.Machine
end

section
/-!
SUPPORT. The engines of a platform, each on its own (00_scope R11, 60_exceptions R233).
-/

namespace Sys2Proof.Machine

/-- Each engine of a platform is resumed as often as the order names it, and by nothing else. -/
theorem platformRun_getElem? (order : List Nat) (p : List Result) (i : Nat) :
    (platformRun order p)[i]? = p[i]?.map resume^[order.count i] := by
  induction order generalizing p with
  | nil => exact (congrFun Option.map_id _).symm
  | cons j order ih =>
    rw [platformRun, ih, platformStep_getElem?, List.count_cons]
    by_cases hj : j = i
    · rw [if_pos hj, if_pos (beq_iff_eq.2 hj), Option.map_map, Function.iterate_succ]
    · rw [if_neg hj, if_neg (mt beq_iff_eq.1 hj), Nat.add_zero]

/-- An engine whose run was refused stays refused (log entry 23). -/
theorem iterate_resume_refused (r : Refusal) (k : Nat) : resume^[k] (.refused r) = .refused r :=
  Function.iterate_fixed (resume_refused r) k

/-- Resuming an engine again and again makes its steps one after another. -/
theorem iterate_resume_next (k : Nat) (s : State) : resume^[k] (.next s) = runSteps k s := by
  induction k generalizing s with
  | zero => rfl
  | succ k ih =>
    rw [Function.iterate_succ_apply, resume_next, runSteps_succ]
    cases step s with
    | next t => exact ih t
    | fault r => cases r
    | refused r => exact iterate_resume_refused r k

/-- Settles O53: an order of steps resumes each engine as often as it names it, whatever the others do. -/
theorem instancesDoNotInteract : Obligations.InstancesDoNotInteract := by
  unfold Obligations.InstancesDoNotInteract
  refine ⟨fun neng i hi => ⟨_, platformReset_getElem? neng i hi, rfl, rfl, rfl, rfl⟩, fun order p i =>
    ⟨fun s hs => ?_, fun r hr => ?_⟩⟩
  · rw [platformRun_getElem?, hs, Option.map_some, iterate_resume_next]
  · rw [platformRun_getElem?, hr, Option.map_some, iterate_resume_refused]

end Sys2Proof.Machine
end

section
/-!
SUPPORT. A run goes on as if the host were not there (60_exceptions R225, 44_engine R204).
-/

namespace Sys2Proof.Machine

/-- Each effect is the answer of the engine's turn: the converse of `exec_nextMicroOp_effect`. -/
theorem EngineEffect.exec_eq {s t : State} (h : EngineEffect s t) : exec (nextMicroOp s) s = .next t := by
  have hexec := congrFun (exec_nextMicroOp s) s
  cases h with
  | rested hp => obtain hp | hp := hp <;> rw [hp] at hexec <;> exact hexec
  | ivLoaded hp => rw [hp] at hexec; exact hexec.trans (execLoadiv_eq s)
  | wordFetched hp hr => rw [hp] at hexec; exact hexec.trans (execFetch_within hr)
  | blockFetched hp hr => rw [hp] at hexec; exact hexec.trans (execFetch_block_end hr)
  | workLoaded hp => rw [hp] at hexec; exact hexec.trans (execInitv_eq s)
  | rounded hp hr => rw [hp] at hexec; exact hexec.trans (execRound_within hr)
  | groupRounded hp hr hg => rw [hp] at hexec; exact hexec.trans (execRound_group_end hr hg)
  | blockRounded hp hr hg => rw [hp] at hexec; exact hexec.trans (execRound_block_end hr hg)
  | expanded hp => rw [hp] at hexec; exact hexec.trans (execExpand_eq s)
  | blockAdded hp hb => rw [hp] at hexec; exact hexec.trans (execFeedfwd_more hb)
  | runEnded hp hb => rw [hp] at hexec; exact hexec.trans (execFeedfwd_last hb)

theorem EngineEffect.step_alone_eq {s t : State} (h : EngineEffect s t) (hs : s.turns = []) : step s = .next t :=
  (step_alone hs).trans h.exec_eq

/-- The engine's turn neither looks at what belongs to the host nor changes it. -/
theorem EngineEffect.engineView {s t : State} (h : EngineEffect s t) : EngineEffect s.engineView t.engineView := by
  cases h with
  | rested hp => exact .rested hp
  | ivLoaded hp => exact .ivLoaded hp
  | wordFetched hp hr => exact .wordFetched hp hr
  | blockFetched hp hr => exact .blockFetched hp hr
  | workLoaded hp => exact .workLoaded hp
  | rounded hp hr => exact .rounded hp hr
  | groupRounded hp hr hg => exact .groupRounded hp hr hg
  | blockRounded hp hr hg => exact .blockRounded hp hr hg
  | expanded hp => exact .expanded hp
  | blockAdded hp hb => exact .blockAdded hp hb
  | runEnded hp hb => exact .runEnded hp hb

/-- An engine left alone runs the same whatever the host last read. -/
theorem runSteps_engineView {k : Nat} {s t : State} (hs : s.turns = []) (h : runSteps k s = .next t) :
    runSteps k s.engineView = .next t.engineView := by
  induction k generalizing s with
  | zero => cases h; rfl
  | succ k ih =>
    obtain ⟨u, hu⟩ := step_alone_answers hs
    have he := step_alone_effect hs hu
    rw [runSteps_succ, hu] at h
    rw [runSteps_succ, he.engineView.step_alone_eq rfl]
    exact ih (he.inputKept.turns.trans hs) h

/-- On the engine's turn the engine makes the step it makes alone. -/
theorem step_engine_engineView {s : State} {rest : List Turn} (hs : s.turns = .engine :: rest) :
    ∃ t, step s = .next t ∧ t.turns = rest ∧ step s.engineView = .next t.engineView := by
  obtain ⟨t, ht⟩ := exec_answers (nextMicroOp s) (s.setTurns rest)
  have he := exec_nextMicroOp_effect_setTurns ht
  exact ⟨t, (step_of_engine (.inr hs)).trans ht, he.inputKept.turns, he.engineView.step_alone_eq rfl⟩

/-- During a run a host access is answered or ignored. -/
theorem HostEffect.engineView_of_busy {s t : State} (h : HostEffect s t) (hbusy : s.busy = true) :
    t.turns = s.turns ∧ t.engineView = s.engineView := by
  cases h with
  | answered | ignored => exact ⟨rfl, rfl⟩
  | started hrest | variant _ hrest | bitlen _ hrest | mwords _ hrest => exact absurd hbusy (by simp [hrest])

/-- On the host's turn during a run the engine stays as it is. -/
theorem step_host_engineView {s : State} {a : HostAccess} {rest : List Turn} (hs : s.turns = .host a :: rest)
    (hbusy : s.busy = true) : ∃ t, step s = .next t ∧ t.turns = rest ∧ t.engineView = s.engineView := by
  obtain ⟨t, ht⟩ := hostMove_answers a (s.setTurns rest)
  exact ⟨t, (step_of_host hs).trans ht, (hostMove_effect ht).engineView_of_busy hbusy⟩

/-- The engine of a state, left alone, is busy before each of its next `n` steps and after them. -/
def BusyFor (n : Nat) (s : State) : Prop :=
  ∀ k ≤ n, ∃ x, runSteps k s = .next x ∧ x.busy = true

theorem BusyFor.now {n : Nat} {s : State} (h : BusyFor n s) : s.busy = true := by
  obtain ⟨x, hx, hbusy⟩ := h 0 (Nat.zero_le n)
  cases hx
  exact hbusy

theorem BusyFor.tail {n : Nat} {s t : State} (h : BusyFor (n + 1) s) (hstep : step s = .next t) : BusyFor n t := by
  intro k hk
  obtain ⟨x, hx, hbusy⟩ := h (k + 1) (Nat.succ_le_succ hk)
  rw [runSteps_succ, hstep] at hx
  exact ⟨x, hx, hbusy⟩

/-- Turns of the engine and the host lead the engine where its own turns lead it alone, as long as it stays busy. -/
theorem runSteps_engineOrHost (ts : List Turn) {s : State} (hs : s.turns = ts) (hts : ∀ x ∈ ts, engineOrHost x = true)
    (hbusy : BusyFor (engineTurns ts) s.engineView) :
    ∃ t, runSteps ts.length s = .next t ∧ runSteps (engineTurns ts) s.engineView = .next t.engineView := by
  induction ts generalizing s with
  | nil => exact ⟨s, rfl, rfl⟩
  | cons turn rest ih =>
    obtain ⟨hturn, hrest⟩ := List.forall_mem_cons.1 hts
    cases turn with
    | engine =>
      obtain ⟨u, hstep, hu, hview⟩ := step_engine_engineView hs
      obtain ⟨t, hrun, halone⟩ := ih hu hrest (hbusy.tail hview)
      refine ⟨t, ?_, ?_⟩
      · rw [List.length_cons, runSteps_succ, hstep]; exact hrun
      · rw [show engineTurns (.engine :: rest) = engineTurns rest + 1 from rfl, runSteps_succ, hview]; exact halone
    | host a =>
      obtain ⟨u, hstep, hu, hview⟩ := step_host_engineView hs hbusy.now
      obtain ⟨t, hrun, halone⟩ := ih hu hrest (hview ▸ hbusy)
      refine ⟨t, ?_, hview ▸ halone⟩
      rw [List.length_cons, runSteps_succ, hstep]; exact hrun
    | place | reset => cases hturn

/-- Settles O51: by induction on the moves, with the engine's view of the state in place of the state. -/
theorem hostAccessesDoNotDisturbARun : Obligations.HostAccessesDoNotDisturbARun := by
  unfold Obligations.HostAccessesDoNotDisturbARun
  intro s hts hbusy
  have hview : BusyFor (engineTurns s.turns) s.engineView := fun k hk => by
    obtain ⟨x, hx, hidle, hdone⟩ := hbusy k hk
    exact ⟨x.engineView, runSteps_engineView (s := s.alone) rfl hx, busy_eq_true.2 (not_or_intro hidle hdone)⟩
  obtain ⟨t, hrun, halone⟩ := runSteps_engineOrHost s.turns rfl hts hview
  obtain ⟨u, hu, -⟩ := hbusy _ le_rfl
  have huview : runSteps (engineTurns s.turns) s.engineView = .next u.engineView := runSteps_engineView (s := s.alone) rfl hu
  exact ⟨t, u, hrun, hu, Host.Outcome.next.inj (halone.symm.trans huview)⟩

end Sys2Proof.Machine
end

section
/-!
SUPPORT. What is public of a state determines what is public of the next one (60_exceptions R232, 44_engine R205, 70_reset R259).
-/

namespace Sys2Proof.Machine

/-- The three counters of the position are equal. -/
def CountersEq (s t : State) : Prop :=
  s.blk = t.blk ∧ s.grp = t.grp ∧ s.rnd = t.rnd

/-- Two states that agree publicly stay so when neither changes its configuration and what belongs to the host. -/
theorem publicEq.of_inputKept {s t s' t' : State} (h : publicEq s t) (hs : InputKept s s') (ht : InputKept t t')
    (hphase : s'.phase = t'.phase) (hpos : positionEq s' t') : publicEq s' t' := by
  obtain ⟨-, -, hbitlen, hmwords, hvariant, hhost, hturns⟩ := h
  exact ⟨hphase, hpos, by rw [hs.bitlen, ht.bitlen, hbitlen], by rw [hs.mwords, ht.mwords, hmwords],
    by rw [hs.variant, ht.variant, hvariant], by rw [hs.hostData, ht.hostData, hhost],
    by rw [hs.turns, ht.turns, hturns]⟩

/-- The engine's turn goes where the phase, the counters set in it and `BITLEN` send it, whatever the data. -/
theorem EngineEffect.position_simulated {s t s' : State} (h : EngineEffect s s') (heq : publicEq s t) :
    ∃ t', EngineEffect t t' ∧ s'.phase = t'.phase ∧ positionEq s' t' ∧ (CountersEq s t → CountersEq s' t') := by
  obtain ⟨hphase, hpos, hbitlen, -⟩ := heq
  cases h with
  | rested hp => exact ⟨t, .rested (hphase ▸ hp), hphase, hpos, id⟩
  | ivLoaded hp => exact ⟨_, .ivLoaded (hphase ▸ hp), rfl, ⟨rfl, rfl⟩, fun ⟨_, hgrp, _⟩ => ⟨rfl, hgrp, rfl⟩⟩
  | wordFetched hp hr =>
    simp only [positionEq, hp] at hpos ⊢
    obtain ⟨hblk, hrnd⟩ := hpos
    exact ⟨_, .wordFetched (hphase ▸ hp) (hrnd ▸ hr), hp ▸ hphase, ⟨hblk, congrArg (· + 1) hrnd⟩,
      fun ⟨_, hgrp, _⟩ => ⟨hblk, hgrp, congrArg (· + 1) hrnd⟩⟩
  | blockFetched hp hr =>
    simp only [positionEq, hp] at hpos
    obtain ⟨hblk, hrnd⟩ := hpos
    exact ⟨_, .blockFetched (hphase ▸ hp) (hrnd ▸ hr), rfl, ⟨hblk, hrnd⟩, id⟩
  | workLoaded hp =>
    simp only [positionEq, hp] at hpos
    obtain ⟨hblk, -⟩ := hpos
    exact ⟨_, .workLoaded (hphase ▸ hp), rfl, ⟨hblk, rfl, rfl⟩, fun _ => ⟨hblk, rfl, rfl⟩⟩
  | rounded hp hr =>
    simp only [positionEq, hp] at hpos ⊢
    obtain ⟨hblk, hrnd, hgrp⟩ := hpos
    exact ⟨_, .rounded (hphase ▸ hp) (hrnd ▸ hr), hp ▸ hphase, ⟨hblk, congrArg (· + 1) hrnd, hgrp⟩,
      fun _ => ⟨hblk, hgrp, congrArg (· + 1) hrnd⟩⟩
  | groupRounded hp hr hg =>
    simp only [positionEq, hp] at hpos
    obtain ⟨hblk, hrnd, hgrp⟩ := hpos
    exact ⟨_, .groupRounded (hphase ▸ hp) (hrnd ▸ hr) (hgrp ▸ hg), rfl, ⟨hblk, hrnd, hgrp⟩, id⟩
  | blockRounded hp hr hg =>
    simp only [positionEq, hp] at hpos
    obtain ⟨hblk, hrnd, hgrp⟩ := hpos
    exact ⟨_, .blockRounded (hphase ▸ hp) (hrnd ▸ hr) (hgrp ▸ hg), rfl, ⟨hblk, hrnd, hgrp⟩, id⟩
  | expanded hp =>
    simp only [positionEq, hp] at hpos
    obtain ⟨hblk, -, hgrp⟩ := hpos
    exact ⟨_, .expanded (hphase ▸ hp), rfl, ⟨hblk, rfl, congrArg (· + 1) hgrp⟩, fun _ => ⟨hblk, congrArg (· + 1) hgrp, rfl⟩⟩
  | blockAdded hp hb =>
    simp only [positionEq, hp] at hpos
    obtain ⟨hblk, -, hgrp⟩ := hpos
    exact ⟨_, .blockAdded (hphase ▸ hp) (hblk ▸ hbitlen ▸ hb), rfl, ⟨congrArg (· + 1) hblk, rfl⟩,
      fun _ => ⟨congrArg (· + 1) hblk, hgrp, rfl⟩⟩
  | runEnded hp hb =>
    simp only [positionEq, hp] at hpos
    obtain ⟨hblk, -⟩ := hpos
    exact ⟨_, .runEnded (hphase ▸ hp) (hblk ▸ hbitlen ▸ hb), rfl, trivial, id⟩

/-- The engine's turn keeps public agreement. -/
theorem EngineEffect.simulated {s t s' : State} (h : EngineEffect s s') (heq : publicEq s t) :
    ∃ t', EngineEffect t t' ∧ publicEq s' t' ∧ (CountersEq s t → CountersEq s' t') := by
  obtain ⟨t', ht, hphase, hpos, hcounters⟩ := h.position_simulated heq
  exact ⟨t', ht, heq.of_inputKept h.inputKept ht.inputKept hphase hpos, hcounters⟩

/-- Two answers that are next states which agree publicly. -/
def AnswersAgree (r r' : Result) : Prop :=
  ∃ s' t', r = .next s' ∧ r' = .next t' ∧ publicEq s' t'

section
variable {s t : State} (h : publicEq s t)
include h

theorem publicEq.busy_eq : s.busy = t.busy := by
  obtain ⟨hphase, -⟩ := h
  exact congrArg phaseBusy hphase

theorem publicEq.setTurns (ts : List Turn) : publicEq (s.setTurns ts) (t.setTurns ts) := by
  obtain ⟨hphase, hpos, hbitlen, hmwords, hvariant, hhost, -⟩ := h
  exact ⟨hphase, hpos, hbitlen, hmwords, hvariant, hhost, rfl⟩

theorem publicEq.nextTurn_eq : nextTurn s = nextTurn t := by
  obtain ⟨-, -, -, -, -, -, hturns⟩ := h
  rw [nextTurn, nextTurn, hturns]

/-- An equal answer to a read keeps public agreement. -/
theorem hostAnswer_agree {x y : Word} (hxy : x = y) : AnswersAgree (hostAnswer x s) (hostAnswer y t) := by
  obtain ⟨hphase, hpos, hbitlen, hmwords, hvariant, -, hturns⟩ := h
  exact ⟨_, _, rfl, rfl, hphase, hpos, hbitlen, hmwords, hvariant, congrArg some hxy, hturns⟩

theorem ignoredWrite_agree : AnswersAgree (ignoredWrite s) (ignoredWrite t) :=
  ⟨_, _, rfl, rfl, h⟩

/-- A configuration write is ignored in both states or done in both. -/
theorem configWrite_agree {sw tw : State} (hw : publicEq sw tw) : AnswersAgree (configWrite sw s) (configWrite tw t) := by
  refine ⟨_, _, rfl, rfl, ?_⟩
  rw [h.busy_eq]
  split
  · exact h
  · exact hw

/-- A START is accepted in both states or in neither. -/
theorem writeCtrl_agree (d : Word) : AnswersAgree (writeCtrl d s) (writeCtrl d t) := by
  refine ⟨_, _, rfl, rfl, ?_⟩
  rw [h.busy_eq]
  split
  · obtain ⟨-, -, hinput⟩ := h
    exact ⟨rfl, trivial, hinput⟩
  · exact h

/-- Outside DONE a DIGEST register reads 0 in both states. -/
theorem digestWord_agree (hp : s.phase ≠ .done) (i : BitVec 3) : digestWord s i = digestWord t i := by
  obtain ⟨hphase, -⟩ := h
  rw [digestWord, digestWord, if_pos hp, if_pos (hphase ▸ hp)]

/-- A read with a code answers the same in both states, unless it is of a DIGEST register in DONE. -/
theorem decodeRead_agree {r : BitVec 4} (hr : s.phase = .done → r.toNat < 8) :
    AnswersAgree (exec (decodeRead r) s) (exec (decodeRead r) t) := by
  obtain ⟨hphase, -, hbitlen, hmwords, hvariant, -⟩ := id h
  unfold decodeRead
  split
  case h_1 | h_8 => exact hostAnswer_agree h rfl
  case h_2 => exact hostAnswer_agree h (congrArg statusWord hphase)
  case h_3 => exact hostAnswer_agree h (congrArg variantWord hvariant)
  case h_4 => exact hostAnswer_agree h (congrArg bitlenLow hbitlen)
  case h_5 => exact hostAnswer_agree h (congrArg bitlenHigh hbitlen)
  case h_6 => exact hostAnswer_agree h (congrArg mwordsLow hmwords)
  case h_7 => exact hostAnswer_agree h (congrArg mwordsHigh hmwords)
  case h_9 =>
    have hdigest : ¬r.toNat < 8 := by grind
    exact hostAnswer_agree h (digestWord_agree h (fun hp => hdigest (hr hp)) _)

/-- A write with a code does the same in both states. -/
theorem decodeWrite_agree (r : BitVec 4) (d : Word) :
    AnswersAgree (exec (decodeWrite r d) s) (exec (decodeWrite r d) t) := by
  obtain ⟨hphase, hpos, hbitlen, hmwords, hvariant, hrest⟩ := id h
  unfold decodeWrite
  split
  case h_1 => split <;> exact writeCtrl_agree h d
  case h_3 => exact configWrite_agree h ⟨hphase, hpos, hbitlen, hmwords, rfl, hrest⟩
  case h_4 => exact configWrite_agree h ⟨hphase, hpos, congrArg (withBitlenLow · d) hbitlen, hmwords, hvariant, hrest⟩
  case h_5 => exact configWrite_agree h ⟨hphase, hpos, congrArg (withBitlenHigh · d) hbitlen, hmwords, hvariant, hrest⟩
  case h_6 => exact configWrite_agree h ⟨hphase, hpos, hbitlen, congrArg (withMwordsLow · d) hmwords, hvariant, hrest⟩
  case h_7 => exact configWrite_agree h ⟨hphase, hpos, hbitlen, congrArg (withMwordsHigh · d) hmwords, hvariant, hrest⟩
  case h_2 | h_8 | h_9 => exact ignoredWrite_agree h

/-- A host move does the same in both states, unless it reads a DIGEST register in DONE. -/
theorem hostMove_agree {a : HostAccess} (ha : s.phase = .done → readsDigest (.host a) = false) :
    AnswersAgree (hostMove a s) (hostMove a t) := by
  cases a with
  | read regno =>
    obtain hregno | hregno := lt_or_ge regno 16
    · rw [hostMove_read hregno]
      refine decodeRead_agree h fun hp => ?_
      have hdigest := ha hp
      simp only [readsDigest, Bool.and_eq_false_iff, decide_eq_false_iff_not] at hdigest
      rw [BitVec.toNat_ofNat]
      omega
    · rw [hostMove_read_reserved hregno, hostMove_read_reserved hregno]
      exact hostAnswer_agree h rfl
  | write regno d =>
    obtain hregno | hregno := lt_or_ge regno 16
    · rw [hostMove_write hregno]
      exact decodeWrite_agree h _ d
    · rw [hostMove_write_reserved hregno, hostMove_write_reserved hregno]
      exact ignoredWrite_agree h

end

/-- Settles O52: the engine's turn by its effects, a host move by its access; a placing is done at rest in both states, and a reset
leaves IDLE with the configuration cleared. -/
theorem onlyDigestReadsRevealData : Obligations.OnlyDigestReadsRevealData := by
  unfold Obligations.OnlyDigestReadsRevealData
  intro s t s' heq hstep hdigest
  have hturn := heq.nextTurn_eq
  have hu := heq.setTurns (nextTurn s).2
  rw [step] at hstep
  rw [step, ← hturn]
  cases ht : (nextTurn s).1 with
  | engine =>
    rw [ht] at hstep
    obtain ⟨t', he, hpublic, hcounters⟩ := (exec_nextMicroOp_effect hstep).simulated hu
    exact ⟨t', he.exec_eq, hpublic, fun _ hblk hgrp hrnd => hcounters ⟨hblk, hgrp, hrnd⟩⟩
  | host a =>
    rw [ht] at hstep hdigest
    obtain ⟨u, t', hs', ht', hpublic⟩ := hostMove_agree hu hdigest
    cases hs'.symm.trans hstep
    obtain ⟨-, -, -, hsblk, hsgrp, hsrnd⟩ := (hostMove_effect hs').datapath_eq
    obtain ⟨-, -, -, htblk, htgrp, htrnd⟩ := (hostMove_effect ht').datapath_eq
    refine ⟨t', ht', hpublic, fun _ hblk hgrp hrnd => ?_⟩
    rw [hsblk, hsgrp, hsrnd, htblk, htgrp, htrnd]
    exact ⟨hblk, hgrp, hrnd⟩
  | place i value =>
    rw [ht] at hstep
    obtain ⟨hrest, hplaced⟩ | ⟨-, hrefused⟩ := placeWord_cases i value (s.setTurns (nextTurn s).2)
    · cases hplaced.symm.trans hstep
      rw [hu.busy_eq] at hrest
      exact ⟨_, placeWord_rest (busy_eq_false.1 hrest), hu, fun _ hblk hgrp hrnd => ⟨hblk, hgrp, hrnd⟩⟩
    · cases hrefused.symm.trans hstep
  | reset =>
    rw [ht] at hstep
    cases hstep
    obtain ⟨-, -, -, -, -, hhost, hturns⟩ := hu
    exact ⟨_, rfl, ⟨rfl, trivial, rfl, rfl, rfl, hhost, hturns⟩, fun hreset => absurd rfl hreset⟩

end Sys2Proof.Machine
end

section
/-!
SUPPORT. The reset event and the configuration lock (70_reset R250, R257).
-/

namespace Sys2Proof.Machine

@[simp] theorem statusWord_idle : statusWord .idle = 0 := by decide

/-- Settles O9: the state after the event rests in IDLE, where a DIGEST register and STATUS read 0. -/
theorem resetEventAsStated : Obligations.ResetEventAsStated := by
  unfold Obligations.ResetEventAsStated
  intro s rest hturn
  refine ⟨resetEvent (s.setTurns rest), step_of_reset hturn, rfl, rfl, rfl, rfl, rfl, rfl, rfl, fun i => ?_, ?_⟩
  · obtain ⟨hread, -⟩ := digestRead i (resetEvent (s.setTurns rest))
    exact hread Phase.noConfusion
  · rw [exec, execRdStatus, resetEvent_phase, statusWord_idle]
    rfl

/-- During a run a host access changes at most the value the host is given. -/
theorem HostEffect.eq_of_busy {s t : State} (h : HostEffect s t) (hbusy : s.busy = true) :
    ∃ x, t = { s with hostData := x } := by
  cases h with
  | answered x => exact ⟨some x, rfl⟩
  | ignored => exact ⟨s.hostData, rfl⟩
  | started hrest | variant _ hrest | bitlen _ hrest | mwords _ hrest => exact absurd hbusy (by simp [hrest])

/-- The next move is a reset only where a reset stands first in the list of moves. -/
theorem turns_of_nextTurn_reset {s : State} (h : (nextTurn s).1 = .reset) : ∃ rest, s.turns = .reset :: rest := by
  unfold nextTurn at h
  split at h
  case h_1 => cases h
  case h_2 turn rest hturns => exact ⟨rest, hturns.trans (congrArg (· :: rest) h)⟩

/-- Settles O20: a host access while busy is answered or ignored, and each change of a configuration register outside a reset is
made at rest. -/
theorem configurationLockedWhileBusy : Obligations.ConfigurationLockedWhileBusy := by
  unfold Obligations.ConfigurationLockedWhileBusy
  intro s hbusy
  refine ⟨fun a rest hturn => ?_, fun t hstep hreset => ?_⟩
  · obtain ⟨t, ht⟩ := hostMove_answers a (s.setTurns rest)
    obtain ⟨x, rfl⟩ := (hostMove_effect ht).eq_of_busy (busy_eq_true.2 hbusy)
    exact ⟨x, (step_of_host hturn).trans ht⟩
  · have hnot : (nextTurn s).1 ≠ .reset := fun h => (turns_of_nextTurn_reset h).elim hreset
    obtain ⟨-, -, -, hvariant, hbitlen, hmwords⟩ := whoControlsTheEngine s t hstep hnot
    exact ⟨of_not_not fun hne => hbusy (hbitlen hne).1, of_not_not fun hne => hbusy (hmwords hne).1,
      of_not_not fun hne => hbusy (hvariant hne).1⟩

end Sys2Proof.Machine
end

section
/-!
SUPPORT. A numbered word put in place is the next instruction (log entries 11, 12): its bytes decode to the micro-operation or
the access that `placeFetchWord` puts there.
-/

namespace Sys2Proof.Machine

/-- Byte `k` above a number's first byte is byte `k` of the datum above it. -/
theorem ofNat_div_eq_extractLsb' (m : Nat) {k : Nat} (hk : k < 4) :
    BitVec.ofNat 8 (m / 2 ^ (8 * (k + 1))) = (BitVec.ofNat 32 (m / 256)).extractLsb' (8 * k) 8 := by
  apply BitVec.eq_of_toNat_eq
  rw [BitVec.extractLsb'_toNat, BitVec.toNat_ofNat, BitVec.toNat_ofNat, Nat.shiftRight_eq_div_pow]
  interval_cases k <;> omega

/-- The bytes of a numbered word are its first byte and those of the datum above it. -/
theorem tableBytes_eq (nbits w : Nat) :
    tableBytes nbits w = BitVec.ofNat 8 (w % 2 ^ nbits) :: bytesOfDatum (BitVec.ofNat 32 (w % 2 ^ nbits / 256)) := by
  have hbyte := fun k (hk : k < 4) => ofNat_div_eq_extractLsb' (w % 2 ^ nbits) hk
  rw [bytesOfDatum, ← hbyte 0 (by decide), ← hbyte 1 (by decide), ← hbyte 2 (by decide), ← hbyte 3 (by decide)]
  simp only [tableBytes, List.map_cons, List.map_nil, Nat.mul_zero, Nat.pow_zero, Nat.div_one]

/-- The value of a `HOP` code's byte (30_encoding R102). -/
theorem toNat_hopByte (dir : BitVec 1) (r : BitVec 4) :
    ((dir ++ r : BitVec 5).setWidth 8).toNat = 16 * dir.toNat + r.toNat := by
  revert dir r; decide

/-- A first byte with direction 0 places the host's read of its register. -/
theorem tableAccess_read {m : Nat} {r : BitVec 4} (h : BitVec.ofNat 8 m = (0#1 ++ r : BitVec 5).setWidth 8) :
    tableAccess m = .read r.toNat := by
  have hm : m % 256 = r.toNat := (congrArg BitVec.toNat h).trans ((toNat_hopByte 0 r).trans (Nat.zero_add _))
  have hr := r.isLt
  rw [tableAccess, if_neg (by omega), show m % 16 = r.toNat by omega]

/-- A first byte with direction 1 places the host's write of its register, with the datum above the byte. -/
theorem tableAccess_write {m : Nat} {r : BitVec 4} (h : BitVec.ofNat 8 m = (1#1 ++ r : BitVec 5).setWidth 8) :
    tableAccess m = .write r.toNat (BitVec.ofNat 32 (m / 256)) := by
  have hm : m % 256 = 16 + r.toNat := (congrArg BitVec.toNat h).trans (toNat_hopByte 1 r)
  have hr := r.isLt
  rw [tableAccess, if_pos (by omega), show m % 16 = r.toNat by omega]

/-- A numbered word's bytes that decode as a micro-operation decode to the one its low three bits name. -/
theorem decodePhase3_of_tableBytes {nbits w : Nat} {i : Instr} {rest : List Byte}
    (h : decodeBytes .phase3 (tableBytes nbits w) = .ok (i, rest)) :
    decodePhase3 (BitVec.ofNat 3 (w % 2 ^ nbits)) = i := by
  obtain ⟨c, hbytes, rfl⟩ := decodeBytes_phase3_ok h
  rw [tableBytes_eq] at hbytes
  obtain ⟨hbyte, -⟩ := List.cons.inj hbytes
  have hcode : (BitVec.ofNat 8 (w % 2 ^ nbits)).setWidth 3 = c := by
    rw [hbyte, BitVec.setWidth_setWidth_of_le _ (by decide), BitVec.setWidth_eq]
  rw [← hcode, BitVec.setWidth_ofNat_of_le (by decide)]

/-- A numbered word's bytes that decode as a host access decode to the access that is placed. -/
theorem hostMove_tableAccess {nbits w : Nat} {i : Instr} {rest : List Byte}
    (h : decodeBytes .hop5 (tableBytes nbits w) = .ok (i, rest)) :
    hostMove (tableAccess (w % 2 ^ nbits)) = exec i := by
  rw [tableBytes_eq] at h
  obtain ⟨r, hbytes, -⟩ | ⟨r, d, hbytes, -⟩ := decodeBytes_hop5_ok h
  · obtain ⟨hbyte, -⟩ := List.cons.inj hbytes
    rw [hbyte, Encoding.read, decodeBytes_read] at h
    cases h
    rw [tableAccess_read hbyte, hostMove_read r.isLt, BitVec.ofNat_toNat, BitVec.setWidth_eq]
  · obtain ⟨hbyte, -⟩ := List.cons.inj hbytes
    rw [hbyte, Encoding.write, decodeBytes_write, ← List.append_nil (bytesOfDatum _), decodeDatum_bytesOfDatum] at h
    cases h
    rw [tableAccess_write hbyte, hostMove_write r.isLt, BitVec.ofNat_toNat, BitVec.setWidth_eq]

theorem decodeTableWord_ok {nbits w : Nat} {i : Instr} (h : decodeTableWord nbits w = some i) :
    ∃ rest, decodeBytes (tableFormat nbits w) (tableBytes nbits w) = .ok (i, rest) := by
  unfold decodeTableWord at h
  split at h
  case h_1 rest hdecode => cases h; exact ⟨rest, hdecode⟩
  case h_2 => cases h

/-- A step after a micro-operation's word is put in place runs it in the phase it names. -/
theorem step_withFetchWord_phase3 {nbits w : Nat} (hf : tableFormat nbits w = .phase3) (s : State) :
    step (s.withFetchWord nbits w) = exec (decodePhase3 (BitVec.ofNat 3 (w % 2 ^ nbits)))
      { s with phase := Phase.ofCode (BitVec.ofNat 3 (w % 2 ^ nbits)) } := by
  rw [State.withFetchWord, placeFetchWord, hf]
  refine (step_of_engine (.inr rfl)).trans ?_
  rw [nextMicroOp, setTurns_phase, setPhase_phase, phaseCode_ofCode]
  rfl

/-- A step after a host access's word is put in place makes the access, in the state the word was put in. -/
theorem step_withFetchWord_hop5 {nbits w : Nat} (hf : tableFormat nbits w = .hop5) (s : State) :
    step (s.withFetchWord nbits w) = hostMove (tableAccess (w % 2 ^ nbits)) s := by
  rw [State.withFetchWord, placeFetchWord, hf]
  exact step_of_host rfl

/-- Settles O7: what the word's bytes decode to is what is put in place, in either format. -/
theorem wordInPlaceRunsFirst : Obligations.WordInPlaceRunsFirst := by
  unfold Obligations.WordInPlaceRunsFirst
  intro s nbits w i h
  obtain ⟨rest, hdecode⟩ := decodeTableWord_ok h
  cases hf : tableFormat nbits w with
  | phase3 =>
    rw [hf] at hdecode
    refine ⟨Phase.ofCode (BitVec.ofNat 3 (w % 2 ^ nbits)), ?_, Format.noConfusion⟩
    rw [step_withFetchWord_phase3 hf, decodePhase3_of_tableBytes hdecode]
  | hop5 =>
    rw [hf] at hdecode
    refine ⟨s.phase, ?_, fun _ => rfl⟩
    rw [step_withFetchWord_hop5 hf, hostMove_tableAccess hdecode]

end Sys2Proof.Machine
end
